-- ==== Sys2Proof/Word.lean ====
section
/-! DEFINITION. The word types of the hardware and the two truncations `u8` and `u16` of 00_scope.md R7.
Every value is unsigned (R7); a register, key, column or row index is a `Fin`, since the spec gives it a port or
field width that makes any other value impossible (10_state.md R21, 40_engine.md R101). -/

namespace Sys2Proof

/-- An 8-bit register, timer or memory byte (10_state.md R20). -/
abbrev Byte := BitVec 8

/-- A 16-bit register (`PC`, `SP`, `I`) or instruction word (10_state.md R20, 30_encoding.md R70). -/
abbrev Word := BitVec 16

/-- The 12-bit address field `nnn` of an instruction (30_encoding.md R72). -/
abbrev Addr12 := BitVec 12

/-- A register index, 0 to 15 (10_state.md R21). -/
abbrev RegIdx := Fin 16

/-- A key code, 0x0 to 0xF (45_input.md R260). -/
abbrev KeyCode := Fin 16

/-- A display column, 0 to 63 (10_state.md R29). -/
abbrev ColIdx := Fin 64

/-- A display row, 0 to 31 (10_state.md R29). -/
abbrev RowIdx := Fin 32

/-- `u8(v) = v mod 256` (00_scope.md R7). -/
def u8 (v : Nat) : Byte := BitVec.ofNat 8 v

/-- `u16(v) = v mod 65536` (00_scope.md R7). -/
def u16 (v : Nat) : Word := BitVec.ofNat 16 v

/-- `VF`, the flag register: register index 15 (10_state.md R22). -/
def VF : RegIdx := 15

end Sys2Proof
end

