-- ==== Sys2Proof/Config.lean ====
section
/-! DEFINITION. What the spec leaves to the implementation: the free random byte, and the type of the parameter
`vf_alias_order`. The chosen values of the parameters FONT and `vf_alias_order` stand in Machine/Params.lean. -/

namespace Sys2Proof

/-- The random bytes of the `rand` instruction: any 8-bit values under no law (42_alu.md R171,
92_eei_decisions.md D7). No body: nothing can be proved of a value of it. Log 1. -/
opaque Config.freeRandom : Nat → Byte

/-- The parameter `vf_alias_order` of 93_implementation_defined.md: which of the two writes of a flag writer comes
last, the flag's or the result's, which shows only when the destination is VF. -/
inductive Config.VfAliasOrder where
  /-- The result is written first and the flag second (42_alu.md R172, the default). -/
  | flagLast
  /-- The flag is written first and the result second (the alternative of 92_eei_decisions.md D6). -/
  | resultLast
  deriving DecidableEq, Repr

end Sys2Proof
end

