-- ==== Sys2Proof/Syntax.lean ====
section
/-! DEFINITION. The instructions: one constructor per row of spec/opcode_table.json, 34 in all (30_encoding.md R74). -/

namespace Sys2Proof

/-- The instruction set, "one fixed, closed set of 34 operations" (00_scope.md R2). `x` and `y` are register indices,
`kk` the immediate byte, `nnn` the 12-bit address and `n` the sprite byte count (30_encoding.md R72). -/
inductive Instr where
  /-- clear-screen, 00E0 (44_display.md R233). -/
  | clearScreen
  /-- return, 00EE (41_control_flow.md R130). -/
  | ret
  /-- jump, 1nnn (41_control_flow.md R131). -/
  | jump (nnn : Addr12)
  /-- call, 2nnn (41_control_flow.md R132). -/
  | call (nnn : Addr12)
  /-- skip-eq-imm, 3xkk (41_control_flow.md R133). -/
  | skipEqImm (x : RegIdx) (kk : Byte)
  /-- skip-ne-imm, 4xkk (41_control_flow.md R134). -/
  | skipNeImm (x : RegIdx) (kk : Byte)
  /-- skip-eq-reg, 5xy0 (41_control_flow.md R135). -/
  | skipEqReg (x y : RegIdx)
  /-- load-imm, 6xkk (42_alu.md R160). -/
  | loadImm (x : RegIdx) (kk : Byte)
  /-- add-imm, 7xkk (42_alu.md R161). -/
  | addImm (x : RegIdx) (kk : Byte)
  /-- move, 8xy0 (42_alu.md R162). -/
  | move (x y : RegIdx)
  /-- or, 8xy1 (42_alu.md R163). -/
  | orReg (x y : RegIdx)
  /-- and, 8xy2 (42_alu.md R164). -/
  | andReg (x y : RegIdx)
  /-- xor, 8xy3 (42_alu.md R165). -/
  | xorReg (x y : RegIdx)
  /-- add-reg, 8xy4 (42_alu.md R166). -/
  | addReg (x y : RegIdx)
  /-- sub-reg, 8xy5 (42_alu.md R167). -/
  | subReg (x y : RegIdx)
  /-- shr, 8xy6 (42_alu.md R169). The field `y` is decoded and kept, and ignored (30_encoding.md R76). -/
  | shr (x y : RegIdx)
  /-- subn-reg, 8xy7 (42_alu.md R168). -/
  | subnReg (x y : RegIdx)
  /-- shl, 8xyE (42_alu.md R170). The field `y` is decoded and kept, and ignored (30_encoding.md R76). -/
  | shl (x y : RegIdx)
  /-- skip-ne-reg, 9xy0 (41_control_flow.md R136). -/
  | skipNeReg (x y : RegIdx)
  /-- set-index, Annn (43_index_memory.md R200). -/
  | setIndex (nnn : Addr12)
  /-- indexed-jump, Bnnn (41_control_flow.md R137). -/
  | indexedJump (nnn : Addr12)
  /-- rand, Cxkk (42_alu.md R171). -/
  | rand (x : RegIdx) (kk : Byte)
  /-- draw, Dxyn (44_display.md R234). `n` is a count, 0 to 15 in a well-formed instruction (WellFormed.lean). -/
  | draw (x y : RegIdx) (n : Nat)
  /-- skip-key-down, Ex9E (45_input.md R264). -/
  | skipKeyDown (x : RegIdx)
  /-- skip-key-up, ExA1 (45_input.md R265). -/
  | skipKeyUp (x : RegIdx)
  /-- load-delay, Fx07 (46_timers.md R291). -/
  | loadDelay (x : RegIdx)
  /-- wait-key, Fx0A (45_input.md R266). -/
  | waitKey (x : RegIdx)
  /-- set-delay, Fx15 (46_timers.md R292). -/
  | setDelay (x : RegIdx)
  /-- set-sound, Fx18 (46_timers.md R293). -/
  | setSound (x : RegIdx)
  /-- add-index, Fx1E (43_index_memory.md R201). -/
  | addIndex (x : RegIdx)
  /-- sprite-addr, Fx29 (43_index_memory.md R202). -/
  | spriteAddr (x : RegIdx)
  /-- bcd, Fx33 (43_index_memory.md R203). -/
  | bcd (x : RegIdx)
  /-- dump-regs, Fx55 (43_index_memory.md R204). -/
  | dumpRegs (x : RegIdx)
  /-- load-regs, Fx65 (43_index_memory.md R205). -/
  | loadRegs (x : RegIdx)
  deriving DecidableEq, Repr

end Sys2Proof
end

