-- ==== Sys2Proof/WellFormed.lean ====
section
/-! DEFINITION. Which terms of `Instr` an instruction word can stand for. Register indices, the immediate byte and the
12-bit address have the width of their fields as their type, so every value of them is legal (30_encoding.md R71,
R78); the one check is that a sprite's byte count fits its 4-bit field (R72: n is 0 to 15). -/

namespace Sys2Proof

/-- `i` has an encoding: a draw's count is at most 15 (30_encoding.md R72). -/
def Instr.wf (i : Instr) : Bool :=
  match i with
  | .draw _ _ n => n < 16
  | .clearScreen | .ret | .jump _ | .call _ | .skipEqImm _ _ | .skipNeImm _ _ | .skipEqReg _ _ | .loadImm _ _
  | .addImm _ _ | .move _ _ | .orReg _ _ | .andReg _ _ | .xorReg _ _ | .addReg _ _ | .subReg _ _ | .shr _ _
  | .subnReg _ _ | .shl _ _ | .skipNeReg _ _ | .setIndex _ | .indexedJump _ | .rand _ _ | .skipKeyDown _
  | .skipKeyUp _ | .loadDelay _ | .waitKey _ | .setDelay _ | .setSound _ | .addIndex _ | .spriteAddr _ | .bcd _
  | .dumpRegs _ | .loadRegs _ => true

end Sys2Proof
end

