-- ==== Sys2Proof/Decode.lean ====
section
/-! DEFINITION. The decoder (30_encoding.md R70 to R79), the encoder written from the same table, the opcode table as
the spec prints it (R74, R75) and the assembler form (R80). -/

namespace Sys2Proof

/-! ## Bytes and bit fields -/

/-- `a ++ b = (a << 8) | b`: the byte `a` is the high byte (00_scope.md R8). -/
def concatBytes (a b : Byte) : Word := a.setWidth 16 <<< 8 ||| b.setWidth 16

/-- `v[15:8]` of a 16-bit value. -/
def highByte (v : Word) : Byte := v.extractLsb' 8 8

/-- `v[7:0]` of a 16-bit value. -/
def lowByte (v : Word) : Byte := v.extractLsb' 0 8

/-- Nibble 1, `w[15:12]` (30_encoding.md R71). -/
def nibble1 (w : Word) : BitVec 4 := w.extractLsb' 12 4

/-- Nibble 2, `w[11:8]` (30_encoding.md R71). -/
def nibble2 (w : Word) : BitVec 4 := w.extractLsb' 8 4

/-- Nibble 3, `w[7:4]` (30_encoding.md R71). -/
def nibble3 (w : Word) : BitVec 4 := w.extractLsb' 4 4

/-- Nibble 4, `w[3:0]` (30_encoding.md R71). -/
def nibble4 (w : Word) : BitVec 4 := w.extractLsb' 0 4

/-- The operand `x = n2`, a register index (30_encoding.md R72). -/
def fieldX (w : Word) : RegIdx := (nibble2 w).toFin

/-- The operand `y = n3`, a register index (30_encoding.md R72). -/
def fieldY (w : Word) : RegIdx := (nibble3 w).toFin

/-- The operand `n = n4`, the sprite byte count (30_encoding.md R72). -/
def fieldN (w : Word) : Nat := (nibble4 w).toNat

/-- The operand `kk = w[7:0]`, the immediate byte (30_encoding.md R72). -/
def fieldKK (w : Word) : Byte := w.extractLsb' 0 8

/-- The operand `nnn = w[11:0]`, the 12-bit address (30_encoding.md R72). -/
def fieldNNN (w : Word) : Addr12 := w.extractLsb' 0 12

/-! ## The decoder -/

/-- Why bytes are no instruction. -/
inductive DecodeError where
  /-- The word matches no row of the opcode map (30_encoding.md R75, R77). -/
  | unknownInstruction (w : Word)
  /-- Fewer than the 2 bytes of an instruction (30_encoding.md R70). -/
  | truncated
  deriving DecidableEq, Repr

/-- The rows `00E0` and `00EE`; every other `0nnn` is UNKNOWN (30_encoding.md R74, R77). -/
def decodeFormat0 (w : Word) : Except DecodeError Instr :=
  match w.toNat with
  | 0x00E0 => .ok .clearScreen
  | 0x00EE => .ok .ret
  | _ => .error (.unknownInstruction w)

/-- The rows `8xyN`, told apart by nibble 4 (30_encoding.md R74). -/
def decodeAlu (w : Word) : Except DecodeError Instr :=
  match (nibble4 w).toNat with
  | 0x0 => .ok (.move (fieldX w) (fieldY w))
  | 0x1 => .ok (.orReg (fieldX w) (fieldY w))
  | 0x2 => .ok (.andReg (fieldX w) (fieldY w))
  | 0x3 => .ok (.xorReg (fieldX w) (fieldY w))
  | 0x4 => .ok (.addReg (fieldX w) (fieldY w))
  | 0x5 => .ok (.subReg (fieldX w) (fieldY w))
  | 0x6 => .ok (.shr (fieldX w) (fieldY w))
  | 0x7 => .ok (.subnReg (fieldX w) (fieldY w))
  | 0xE => .ok (.shl (fieldX w) (fieldY w))
  | _ => .error (.unknownInstruction w)

/-- The rows `ExKK`, told apart by `w[7:0]` (30_encoding.md R74). -/
def decodeKey (w : Word) : Except DecodeError Instr :=
  match (fieldKK w).toNat with
  | 0x9E => .ok (.skipKeyDown (fieldX w))
  | 0xA1 => .ok (.skipKeyUp (fieldX w))
  | _ => .error (.unknownInstruction w)

/-- The rows `FxKK`, told apart by `w[7:0]` (30_encoding.md R74). -/
def decodeMisc (w : Word) : Except DecodeError Instr :=
  match (fieldKK w).toNat with
  | 0x07 => .ok (.loadDelay (fieldX w))
  | 0x0A => .ok (.waitKey (fieldX w))
  | 0x15 => .ok (.setDelay (fieldX w))
  | 0x18 => .ok (.setSound (fieldX w))
  | 0x1E => .ok (.addIndex (fieldX w))
  | 0x29 => .ok (.spriteAddr (fieldX w))
  | 0x33 => .ok (.bcd (fieldX w))
  | 0x55 => .ok (.dumpRegs (fieldX w))
  | 0x65 => .ok (.loadRegs (fieldX w))
  | _ => .error (.unknownInstruction w)

/-- The decoder: total on every 16-bit word (30_encoding.md R75). The bits that are no field digit must match
exactly, but for the y field of `8xy6` and `8xyE` (R76). -/
def decode (w : Word) : Except DecodeError Instr :=
  match (nibble1 w).toNat with
  | 0x0 => decodeFormat0 w
  | 0x1 => .ok (.jump (fieldNNN w))
  | 0x2 => .ok (.call (fieldNNN w))
  | 0x3 => .ok (.skipEqImm (fieldX w) (fieldKK w))
  | 0x4 => .ok (.skipNeImm (fieldX w) (fieldKK w))
  | 0x5 => if nibble4 w = 0 then .ok (.skipEqReg (fieldX w) (fieldY w)) else .error (.unknownInstruction w)
  | 0x6 => .ok (.loadImm (fieldX w) (fieldKK w))
  | 0x7 => .ok (.addImm (fieldX w) (fieldKK w))
  | 0x8 => decodeAlu w
  | 0x9 => if nibble4 w = 0 then .ok (.skipNeReg (fieldX w) (fieldY w)) else .error (.unknownInstruction w)
  | 0xA => .ok (.setIndex (fieldNNN w))
  | 0xB => .ok (.indexedJump (fieldNNN w))
  | 0xC => .ok (.rand (fieldX w) (fieldKK w))
  | 0xD => .ok (.draw (fieldX w) (fieldY w) (fieldN w))
  | 0xE => decodeKey w
  | 0xF => decodeMisc w
  | _ => .error (.unknownInstruction w)

/-- The decoder over bytes: the first is the high byte of the word (30_encoding.md R70, 20_memory.md R53). It answers
the instruction and the bytes after it. -/
def decodeBytes : List Byte → Except DecodeError (Instr × List Byte)
  | hi :: lo :: rest =>
    match decode (concatBytes hi lo) with
    | .ok i => .ok (i, rest)
    | .error e => .error e
  | _ => .error .truncated

/-! ## The encoder -/

/-- The word whose four nibbles are `n1 n2 n3 n4` (00_scope.md R8). -/
def wordOfNibbles (n1 n2 n3 n4 : Nat) : Word := u16 (n1 * 4096 + n2 * 256 + n3 * 16 + n4)

/-- Format NNN: the opcode nibble and the 12-bit address (30_encoding.md R73). -/
def encNNN (op : Nat) (nnn : Addr12) : Word := u16 (op * 4096 + nnn.toNat)

/-- Formats XKK and XFN: the opcode nibble, `x` and the low byte (30_encoding.md R73). -/
def encXKK (op : Nat) (x : RegIdx) (kk : Nat) : Word := u16 (op * 4096 + x.val * 256 + kk)

/-- Formats XY and XYN: the opcode nibble, `x`, `y` and the last nibble (30_encoding.md R73). -/
def encXYN (op : Nat) (x y : RegIdx) (n : Nat) : Word := wordOfNibbles op x.val y.val n

/-- The word of a well-formed instruction (30_encoding.md R74). -/
def encode : Instr → Word
  | .clearScreen => 0x00E0
  | .ret => 0x00EE
  | .jump nnn => encNNN 0x1 nnn
  | .call nnn => encNNN 0x2 nnn
  | .skipEqImm x kk => encXKK 0x3 x kk.toNat
  | .skipNeImm x kk => encXKK 0x4 x kk.toNat
  | .skipEqReg x y => encXYN 0x5 x y 0x0
  | .loadImm x kk => encXKK 0x6 x kk.toNat
  | .addImm x kk => encXKK 0x7 x kk.toNat
  | .move x y => encXYN 0x8 x y 0x0
  | .orReg x y => encXYN 0x8 x y 0x1
  | .andReg x y => encXYN 0x8 x y 0x2
  | .xorReg x y => encXYN 0x8 x y 0x3
  | .addReg x y => encXYN 0x8 x y 0x4
  | .subReg x y => encXYN 0x8 x y 0x5
  | .shr x y => encXYN 0x8 x y 0x6
  | .subnReg x y => encXYN 0x8 x y 0x7
  | .shl x y => encXYN 0x8 x y 0xE
  | .skipNeReg x y => encXYN 0x9 x y 0x0
  | .setIndex nnn => encNNN 0xA nnn
  | .indexedJump nnn => encNNN 0xB nnn
  | .rand x kk => encXKK 0xC x kk.toNat
  | .draw x y n => encXYN 0xD x y n
  | .skipKeyDown x => encXKK 0xE x 0x9E
  | .skipKeyUp x => encXKK 0xE x 0xA1
  | .loadDelay x => encXKK 0xF x 0x07
  | .waitKey x => encXKK 0xF x 0x0A
  | .setDelay x => encXKK 0xF x 0x15
  | .setSound x => encXKK 0xF x 0x18
  | .addIndex x => encXKK 0xF x 0x1E
  | .spriteAddr x => encXKK 0xF x 0x29
  | .bcd x => encXKK 0xF x 0x33
  | .dumpRegs x => encXKK 0xF x 0x55
  | .loadRegs x => encXKK 0xF x 0x65

/-- The two bytes of an instruction as memory holds them, high byte first (30_encoding.md R70). -/
def encodeBytes (i : Instr) : List Byte := [highByte (encode i), lowByte (encode i)]

/-! ## The opcode table as the spec prints it -/

/-- A row of spec/opcode_table.json: its name, mask and match. -/
structure OpcodeRow where
  mnemonic : String
  mask : Word
  pattern : Word
  deriving DecidableEq, Repr

/-- A word matches a row when `(w & mask) == match` (30_encoding.md R75). -/
def OpcodeRow.matches (r : OpcodeRow) (w : Word) : Bool := w &&& r.mask == r.pattern

/-- The 34 rows, in the table's order (30_encoding.md R74). -/
def opcodeTable : List OpcodeRow :=
  [⟨"clear-screen", 0xFFFF, 0x00E0⟩,
   ⟨"return", 0xFFFF, 0x00EE⟩,
   ⟨"jump", 0xF000, 0x1000⟩,
   ⟨"call", 0xF000, 0x2000⟩,
   ⟨"skip-eq-imm", 0xF000, 0x3000⟩,
   ⟨"skip-ne-imm", 0xF000, 0x4000⟩,
   ⟨"skip-eq-reg", 0xF00F, 0x5000⟩,
   ⟨"load-imm", 0xF000, 0x6000⟩,
   ⟨"add-imm", 0xF000, 0x7000⟩,
   ⟨"move", 0xF00F, 0x8000⟩,
   ⟨"or", 0xF00F, 0x8001⟩,
   ⟨"and", 0xF00F, 0x8002⟩,
   ⟨"xor", 0xF00F, 0x8003⟩,
   ⟨"add-reg", 0xF00F, 0x8004⟩,
   ⟨"sub-reg", 0xF00F, 0x8005⟩,
   ⟨"shr", 0xF00F, 0x8006⟩,
   ⟨"subn-reg", 0xF00F, 0x8007⟩,
   ⟨"shl", 0xF00F, 0x800E⟩,
   ⟨"skip-ne-reg", 0xF00F, 0x9000⟩,
   ⟨"set-index", 0xF000, 0xA000⟩,
   ⟨"indexed-jump", 0xF000, 0xB000⟩,
   ⟨"rand", 0xF000, 0xC000⟩,
   ⟨"draw", 0xF000, 0xD000⟩,
   ⟨"skip-key-down", 0xF0FF, 0xE09E⟩,
   ⟨"skip-key-up", 0xF0FF, 0xE0A1⟩,
   ⟨"load-delay", 0xF0FF, 0xF007⟩,
   ⟨"wait-key", 0xF0FF, 0xF00A⟩,
   ⟨"set-delay", 0xF0FF, 0xF015⟩,
   ⟨"set-sound", 0xF0FF, 0xF018⟩,
   ⟨"add-index", 0xF0FF, 0xF01E⟩,
   ⟨"sprite-addr", 0xF0FF, 0xF029⟩,
   ⟨"bcd", 0xF0FF, 0xF033⟩,
   ⟨"dump-regs", 0xF0FF, 0xF055⟩,
   ⟨"load-regs", 0xF0FF, 0xF065⟩]

/-- An instruction's name in the spec (30_encoding.md R74). -/
def Instr.mnemonic : Instr → String
  | .clearScreen => "clear-screen"
  | .ret => "return"
  | .jump _ => "jump"
  | .call _ => "call"
  | .skipEqImm _ _ => "skip-eq-imm"
  | .skipNeImm _ _ => "skip-ne-imm"
  | .skipEqReg _ _ => "skip-eq-reg"
  | .loadImm _ _ => "load-imm"
  | .addImm _ _ => "add-imm"
  | .move _ _ => "move"
  | .orReg _ _ => "or"
  | .andReg _ _ => "and"
  | .xorReg _ _ => "xor"
  | .addReg _ _ => "add-reg"
  | .subReg _ _ => "sub-reg"
  | .shr _ _ => "shr"
  | .subnReg _ _ => "subn-reg"
  | .shl _ _ => "shl"
  | .skipNeReg _ _ => "skip-ne-reg"
  | .setIndex _ => "set-index"
  | .indexedJump _ => "indexed-jump"
  | .rand _ _ => "rand"
  | .draw _ _ _ => "draw"
  | .skipKeyDown _ => "skip-key-down"
  | .skipKeyUp _ => "skip-key-up"
  | .loadDelay _ => "load-delay"
  | .waitKey _ => "wait-key"
  | .setDelay _ => "set-delay"
  | .setSound _ => "set-sound"
  | .addIndex _ => "add-index"
  | .spriteAddr _ => "sprite-addr"
  | .bcd _ => "bcd"
  | .dumpRegs _ => "dump-regs"
  | .loadRegs _ => "load-regs"

/-! ## The assembler form -/

/-- A hex digit. -/
def hexDigit (d : Nat) : String :=
  ["0", "1", "2", "3", "4", "5", "6", "7", "8", "9", "A", "B", "C", "D", "E", "F"].getD (d % 16) "0"

/-- A register operand, V0 to VF (30_encoding.md R80). -/
def asmReg (x : RegIdx) : String := "V" ++ hexDigit x.val

/-- A byte as two hex digits. -/
def asmByte (kk : Byte) : String := hexDigit (kk.toNat / 16) ++ hexDigit kk.toNat

/-- A 12-bit address as three hex digits. -/
def asmAddr (nnn : Addr12) : String :=
  hexDigit (nnn.toNat / 256) ++ hexDigit (nnn.toNat / 16) ++ hexDigit nnn.toNat

/-- The operands of an instruction in the syntax of 30_encoding.md R80. -/
def Instr.asmOperands : Instr → List String
  | .clearScreen | .ret => []
  | .jump nnn | .call nnn | .setIndex nnn | .indexedJump nnn => [asmAddr nnn]
  | .skipEqImm x kk | .skipNeImm x kk | .loadImm x kk | .addImm x kk | .rand x kk => [asmReg x, asmByte kk]
  | .skipEqReg x y | .skipNeReg x y | .move x y | .orReg x y | .andReg x y | .xorReg x y | .addReg x y
  | .subReg x y | .subnReg x y => [asmReg x, asmReg y]
  | .draw x y n => [asmReg x, asmReg y, hexDigit n]
  | .shr x _ | .shl x _ | .skipKeyDown x | .skipKeyUp x | .loadDelay x | .waitKey x | .setDelay x | .setSound x
  | .addIndex x | .spriteAddr x | .bcd x | .dumpRegs x | .loadRegs x => [asmReg x]

/-- The assembler form: the name, then the operands separated by commas (30_encoding.md R80). -/
def Instr.asm (i : Instr) : String :=
  match i.asmOperands with
  | [] => i.mnemonic
  | ops => i.mnemonic ++ " " ++ ", ".intercalate ops

/-! ## The word of an opcode-table row -/

/-- The instruction the decoder reads from the word whose bits are `w`, numbered as spec/opcode_table.json numbers
them. An instruction is one 16-bit word, so the bits above `nbits` are zero and the two bytes are laid out high byte
first, as 20_memory.md R53 stores them. -/
def decodeTableWord (nbits w : Nat) : Option Instr :=
  let word := u16 (w % 2 ^ nbits)
  match decodeBytes [highByte word, lowByte word] with
  | .ok (i, _) => some i
  | .error _ => none

end Sys2Proof
end

