-- ==== Sys2Proof/Machine/Framebuffer.lean ====
section
/-! DEFINITION. The framebuffer `D` and its three operations (44_display.md R230 to R232, 40_engine.md R101). -/

namespace Sys2Proof.Machine

/-- `D[row][col]`: 32 rows of 64 pixels, `true` meaning on (10_state.md R29). -/
abbrev Display := Vector (Vector Bool 64) 32

/-- `clear()`: every pixel off (44_display.md R231); also the display after RESET (10_state.md R33). -/
def blankDisplay : Display := Vector.replicate 32 (Vector.replicate 64 false)

/-- `get(col, row)`, which is `D[row][col]` (44_display.md R230, 10_state.md R29). -/
def Display.get (d : Display) (col : ColIdx) (row : RowIdx) : Bool := d[row][col]

/-- One set sprite bit at the exact coordinates `(px, py)`: the pixel is flipped, and the answer's second part says
whether it was on before the flip. Outside the grid the bit is dropped, with no effect and no collision
(44_display.md R232). -/
def Display.plot (d : Display) (px py : Nat) : Display × Bool :=
  if h : px < 64 ∧ py < 32 then
    let rowBits := d[py]'h.2
    let old := rowBits[px]'h.1
    (d.set py (rowBits.set px (!old) h.1) h.2, old)
  else (d, false)

/-- The step for bit offset `b` of the sprite byte `byte` whose leftmost bit stands at `(col, row)`: the bit tested is
`byte[7-b]`, MSB first, and the collision is OR-accumulated (44_display.md R232). -/
def drawBit (col row : Nat) (byte : Byte) (acc : Display × Bool) (b : Nat) : Display × Bool :=
  if byte.getLsbD (7 - b) then
    let (d, hit) := Display.plot acc.1 (col + b) row
    (d, acc.2 || hit)
  else acc

/-- One sprite byte: its 8 bits, MSB first (44_display.md R232). -/
def drawByte (col row : Nat) (byte : Byte) (acc : Display × Bool) : Display × Bool :=
  (List.range 8).foldl (drawBit col row byte) acc

/-- The rows of a sprite, one byte each, downwards from `row`, with the collision so far. -/
def drawRows (col row : Nat) (bytes : List Byte) (acc : Display × Bool) : Display × Bool :=
  match bytes with
  | [] => acc
  | byte :: rest => drawRows col (row + 1) rest (drawByte col row byte acc)

/-- `draw_sprite(col, row, bytes)`: the display after it and the collision flag (44_display.md R232). -/
def drawSprite (d : Display) (col row : Nat) (bytes : List Byte) : Display × Bool :=
  drawRows col row bytes (d, false)

end Sys2Proof.Machine
end

