-- ==== Sys2Proof/Machine/Params.lean ====
section
/-! DEFINITION. The spec's named parameters at their default values: FONT (10_state.md R33, 92_eei_decisions.md D27)
and `vf_alias_order` (42_alu.md R172, 92_eei_decisions.md D6). -/

namespace Sys2Proof.Machine

/-- The glyphs 0 to 7 of FONT, 5 bytes each. PRESUMED: "the conventional CHIP-8 font [from general knowledge, not in
source]" (10_state.md R33). Log 3. -/
def fontLow : List Byte :=
  [0xF0, 0x90, 0x90, 0x90, 0xF0] ++ [0x20, 0x60, 0x20, 0x20, 0x70] ++
  [0xF0, 0x10, 0xF0, 0x80, 0xF0] ++ [0xF0, 0x10, 0xF0, 0x10, 0xF0] ++
  [0x90, 0x90, 0xF0, 0x10, 0x10] ++ [0xF0, 0x80, 0xF0, 0x10, 0xF0] ++
  [0xF0, 0x80, 0xF0, 0x90, 0xF0] ++ [0xF0, 0x10, 0x20, 0x40, 0x40]

/-- The glyphs 8 to F of FONT (as `fontLow`). -/
def fontHigh : List Byte :=
  [0xF0, 0x90, 0xF0, 0x90, 0xF0] ++ [0xF0, 0x90, 0xF0, 0x10, 0xF0] ++
  [0xF0, 0x90, 0xF0, 0x90, 0x90] ++ [0xE0, 0x90, 0xE0, 0x90, 0xE0] ++
  [0xF0, 0x80, 0x80, 0x80, 0xF0] ++ [0xE0, 0x90, 0x90, 0x90, 0xE0] ++
  [0xF0, 0x80, 0xF0, 0x80, 0xF0] ++ [0xF0, 0x80, 0xF0, 0x80, 0x80]

/-- The parameter FONT: 80 bytes, glyph d at offset 5*d (10_state.md R33). -/
def font : List Byte := fontLow ++ fontHigh

/-- The parameter `vf_alias_order`, at its default: the result first, the flag last (42_alu.md R172). Log 7. -/
def vfAliasOrder : Config.VfAliasOrder := .flagLast

end Sys2Proof.Machine
end

