-- ==== Sys2Proof/Machine/Memory.lean ====
section
/-! DEFINITION. The memory `M` (10_state.md R20, 20_memory.md R50) as plain data: a list of (address, byte) cells in
one canonical form. An address that is not listed reads as RESET leaves it (10_state.md R33). Range checks stand in
Machine/Ops.lean; nothing here is asked of an address of 0x1000 or more. -/

namespace Sys2Proof.Machine

/-- The first address past memory: 4096 bytes, addresses 0x000 to 0xFFF (20_memory.md R50). -/
def memSize : Nat := 0x1000

/-- What an unlisted address reads as: the FONT bytes at 0x000 to 0x04F, zero elsewhere (10_state.md R33). -/
def resetByte (a : Nat) : Byte := font.getD a 0

/-- The memory: cells of strictly rising address, none equal to its reset byte. Log 12. -/
abbrev Memory := List Host.Cell

/-- The byte at address `a`. -/
def Memory.read (m : Memory) (a : Nat) : Byte :=
  match m with
  | [] => resetByte a
  | c :: rest => if c.1 = a then c.2 else Memory.read rest a

/-- The cells without those at address `a`. -/
def Memory.erase (m : Memory) (a : Nat) : Memory := m.filter (fun c => c.1 != a)

/-- A cell put where its address belongs in the rising order. -/
def Memory.place (m : Memory) (c : Host.Cell) : Memory :=
  match m with
  | [] => [c]
  | d :: rest => if c.1 < d.1 then c :: d :: rest else d :: Memory.place rest c

/-- The memory after the byte `b` is stored at `a`: "A write changes only its byte" (20_memory.md R57). Storing the
reset byte leaves the address unlisted, so equal memories are equal lists. -/
def Memory.write (m : Memory) (a : Nat) (b : Byte) : Memory :=
  if b = resetByte a then Memory.erase m a else Memory.place (Memory.erase m a) (a, b)

/-- The canonical form: addresses strictly rising and inside memory, and no cell equal to its reset byte. -/
abbrev Memory.wf (m : Memory) : Prop :=
  m.Pairwise (fun c d => c.1 < d.1) ∧ ∀ c ∈ m, c.1 < memSize ∧ c.2 ≠ resetByte c.1

end Sys2Proof.Machine
end

