-- ==== Sys2Proof/Machine/State.lean ====
section
/-! DEFINITION. The state of the core (10_state.md R20), the reasons of the halt latch (60_exceptions.md R310), the two
reason types of the host's interface, and the state after RESET (10_state.md R33). -/

namespace Sys2Proof.Machine

/-- What the halt latch `H` records: the reason with its info value (60_exceptions.md R310). -/
inductive Halt where
  /-- UNKNOWN_INSTRUCTION: the raw word. Raised by STEP at decode. -/
  | unknownInstruction (w : Word)
  /-- FETCH_OUT_OF_RANGE: the PC. Raised by STEP at the fetch, when PC + 1 > 0xFFF. -/
  | fetchOutOfRange (pc : Word)
  /-- MEMORY_OUT_OF_RANGE: the lowest faulting address. Raised by return, call, draw, bcd, dump-regs, load-regs. -/
  | memoryOutOfRange (a : Nat)
  /-- KEY_OUT_OF_RANGE: the value of Vx. Raised by skip-key-down and skip-key-up. -/
  | keyOutOfRange (v : Byte)
  /-- IMAGE_TOO_LONG: the length. Raised by LOAD. -/
  | imageTooLong (len : Nat)
  deriving DecidableEq, Repr

/-- The numeric code of a halt's reason (60_exceptions.md R310). -/
def Halt.code : Halt → Nat
  | .unknownInstruction _ => 1
  | .fetchOutOfRange _ => 2
  | .memoryOutOfRange _ => 3
  | .keyOutOfRange _ => 4
  | .imageTooLong _ => 5

/-- The info value of a halt as a number (60_exceptions.md R310). -/
def Halt.info : Halt → Nat
  | .unknownInstruction w => w.toNat
  | .fetchOutOfRange pc => pc.toNat
  | .memoryOutOfRange a => a
  | .keyOutOfRange v => v.toNat
  | .imageTooLong len => len

/-- The reasons for which the MODEL stops with a fault: none. Every failure the spec describes leaves a state, the
pre-state with `H` set (40_engine.md R107), so it is a next state and not a fault. Log 6. -/
inductive Fault where
  deriving DecidableEq, Repr

/-- The reasons for which the MODEL refuses an instruction. -/
inductive Refusal where
  /-- Raised only by an arm of `exec` whose instruction has no meaning yet; no arm is left so. Safe: the model stops
  where the hardware goes on. -/
  | notModelled (mnemonic : String)
  deriving DecidableEq, Repr

/-- The state aggregate (10_state.md R20), and the two fields of the model's own that carry the free random byte. -/
structure State where
  /-- `M`, the 4096 bytes of memory. -/
  mem : Memory
  /-- `V`, the general registers V0 to VF. -/
  v : Vector Byte 16
  /-- `I`, the index register. -/
  i : Word
  /-- `SP`, the stack pointer. -/
  sp : Word
  /-- `DT`, the delay timer. -/
  dt : Byte
  /-- `ST`, the sound timer. -/
  st : Byte
  /-- `PC`, the program counter. -/
  pc : Word
  /-- `D`, the framebuffer. -/
  display : Display
  /-- `K`, the key latch: `true` means pressed. -/
  keys : Vector Bool 16
  /-- `W`, waiting_for_key. -/
  wait : Option RegIdx
  /-- `H`, the halt latch. -/
  halt : Option Halt
  /-- The MODEL's own: random bytes the host has handed over and no `rand` has read yet, oldest first. Log 1. -/
  randIn : List Byte
  /-- The MODEL's own: how many random bytes `rand` has drawn from `Config.freeRandom`. Log 1. -/
  draws : Nat
  deriving DecidableEq, Repr

/-- The state after RESET (10_state.md R33, 70_reset_and_hazards.md R340). The last two fields are the model's own and
their values a DESIGN CHOICE (log 2). -/
def State.reset : State where
  mem := []
  v := Vector.replicate 16 0
  i := 0
  sp := 0x0EA0
  dt := 0
  st := 0
  pc := 0x0200
  display := blankDisplay
  keys := Vector.replicate 16 false
  wait := none
  halt := none
  randIn := []
  draws := 0

end Sys2Proof.Machine
end

