-- ==== Sys2Proof/Machine/Ops.lean ====
section
/-! DEFINITION. The named operations: register and field updates, the halt (the core's one exception, taken in ONE
shared operation), the range-checked memory accesses, the instruction fetch, and the random draw. -/

namespace Sys2Proof.Machine

/-- What a step of this machine answers. -/
abbrev Result := Host.Outcome State Fault Refusal

/-! ## Registers and fields -/

/-- `V[x]` (10_state.md R21): no register is hard-wired. -/
def State.reg (s : State) (x : RegIdx) : Byte := s.v[x]

/-- `V[x] <- b`. -/
def State.setReg (s : State) (x : RegIdx) (b : Byte) : State := { s with v := s.v.set x.val b x.isLt }

/-- `K[k]` (10_state.md R30, and the KEY port of 40_engine.md R101). -/
def State.key (s : State) (k : KeyCode) : Bool := s.keys[k]

/-- `K[k] <- b`. -/
def State.setKey (s : State) (k : KeyCode) (b : Bool) : State := { s with keys := s.keys.set k.val b k.isLt }

/-- `PC <- a`. -/
def State.setPc (s : State) (a : Word) : State := { s with pc := a }

/-- `I <- a`. -/
def State.setIndex (s : State) (a : Word) : State := { s with i := a }

/-- `SP <- a`. -/
def State.setSp (s : State) (a : Word) : State := { s with sp := a }

/-- `DT <- b`. -/
def State.setDt (s : State) (b : Byte) : State := { s with dt := b }

/-- `ST <- b`. -/
def State.setSt (s : State) (b : Byte) : State := { s with st := b }

/-- The whole register file replaced. -/
def State.setRegs (s : State) (v : Vector Byte 16) : State := { s with v := v }

/-- The memory replaced. -/
def State.setMem (s : State) (m : Memory) : State := { s with mem := m }

/-- The framebuffer replaced. -/
def State.setDisplay (s : State) (d : Display) : State := { s with display := d }

/-- `W <- w`. -/
def State.setWait (s : State) (w : Option RegIdx) : State := { s with wait := w }

/-- The model's own random fields replaced (log 1). -/
def State.setRandom (s : State) (bytes : List Byte) (n : Nat) : State := { s with randIn := bytes, draws := n }

/-- `PC <- u16(PC + 2)`, the sequential advance (40_engine.md R105). -/
def State.advance (s : State) : State := s.setPc (s.pc + 2)

/-- The skip: `PC <- u16(PC + 4)` if the condition holds, else `u16(PC + 2)` (40_engine.md R105). -/
def State.skipIf (s : State) (c : Bool) : State := s.setPc (if c then s.pc + 4 else s.pc + 2)

/-! ## Taking the exception

The core has one exceptional event, the halt: there is no vector, handler, saved PC or mode change (60_exceptions.md
R313), and no return from it but RESET (R314, Machine/HostOps.lean). -/

/-- `raise Halt(reason, info)`: the pre-state with only `H` set (40_engine.md R107). -/
def State.raiseHalt (s : State) (h : Halt) : State := { s with halt := some h }

/-- The end of an operation begun in `s`: it applies whole, or it halts and every write it made is discarded
(20_memory.md R56, 40_engine.md R107). -/
def State.commit {α : Type} (s : State) (r : Except Halt α) (k : α → State) : State :=
  match r with
  | .ok a => k a
  | .error h => s.raiseHalt h

/-! ## Memory accesses -/

/-- `MemRead(a, 1)`: the address is an exact natural, never wrapped (20_memory.md R52). -/
def readByte (m : Memory) (a : Nat) : Except Halt Byte :=
  if a < memSize then .ok (m.read a) else .error (.memoryOutOfRange a)

/-- `MemWrite(a, 1, b)` (20_memory.md R52). -/
def writeByte (m : Memory) (a : Nat) (b : Byte) : Except Halt Memory :=
  if a < memSize then .ok (m.write a b) else .error (.memoryOutOfRange a)

/-- `n` bytes read in ascending order from `a`; the first address out of range is the one reported (20_memory.md
R52, R53). -/
def readBytes (m : Memory) (a : Nat) (n : Nat) : Except Halt (List Byte) :=
  match n with
  | 0 => .ok []
  | k + 1 =>
    match readByte m a with
    | .error h => .error h
    | .ok b =>
      match readBytes m (a + 1) k with
      | .error h => .error h
      | .ok bs => .ok (b :: bs)

/-- Bytes written in ascending order from `a`; the first address out of range is the one reported (20_memory.md R52,
R53). -/
def writeBytes (m : Memory) (a : Nat) (bytes : List Byte) : Except Halt Memory :=
  match bytes with
  | [] => .ok m
  | b :: rest =>
    match writeByte m a b with
    | .error h => .error h
    | .ok m' => writeBytes m' (a + 1) rest

/-- `MemRead(a, 2) = M[a] ++ M[a+1]`, big-endian, the lower address checked first (00_scope.md R10). -/
def readWord (m : Memory) (a : Nat) : Except Halt Word :=
  match readByte m a with
  | .error h => .error h
  | .ok hi =>
    match readByte m (a + 1) with
    | .error h => .error h
    | .ok lo => .ok (concatBytes hi lo)

/-- `MemWrite(a, 2, w)`: the high byte at `a`, then the low byte at `a + 1` (00_scope.md R10). -/
def writeWord (m : Memory) (a : Nat) (w : Word) : Except Halt Memory :=
  writeBytes m a [highByte w, lowByte w]

/-! ## The fetch -/

/-- The fetch of STEP: out of range when PC + 1 > 0xFFF, else the big-endian word at PC (40_engine.md R103). -/
def fetchWord (s : State) : Except Halt Word :=
  if s.pc.toNat + 1 > 0xFFF then .error (.fetchOutOfRange s.pc) else readWord s.mem s.pc.toNat

/-- The fetch and the decode of STEP, in that order: a word of no row is UNKNOWN_INSTRUCTION (40_engine.md R103,
30_encoding.md R75). -/
def fetchInstr (s : State) : Except Halt Instr :=
  match fetchWord s with
  | .error h => .error h
  | .ok w =>
    match decode w with
    | .ok i => .ok i
    | .error _ => .error (.unknownInstruction w)

/-! ## The random byte -/

/-- The random byte `r` that a `rand` executed now reads: the host's, or a free value (42_alu.md R171). Log 1. -/
def State.randomByte (s : State) : Byte :=
  match s.randIn with
  | r :: _ => r
  | [] => Config.freeRandom s.draws

/-- The state after that byte is drawn: no two draws take the same one. Log 1. -/
def State.drawn (s : State) : State :=
  match s.randIn with
  | _ :: rest => s.setRandom rest s.draws
  | [] => s.setRandom [] (s.draws + 1)

end Sys2Proof.Machine
end

