-- ==== Sys2Proof/Machine/Operands.lean ====
section
/-! DEFINITION. The operand forms: zero extension (00_scope.md R7), the memory base address, the bytes bcd and
dump-regs store, the registers load-regs writes, and the key number of the skip-key instructions. -/

namespace Sys2Proof.Machine

/-- `zext_16` of a byte (00_scope.md R7). -/
def zextByte (b : Byte) : Word := b.setWidth 16

/-- `zext_16` of a 12-bit address field (00_scope.md R7, 30_encoding.md R72). -/
def zextAddr (nnn : Addr12) : Word := nnn.setWidth 16

/-- `zext_8` of a key code (00_scope.md R7). -/
def keyByte (k : KeyCode) : Byte := u8 k.val

/-- The base address of draw, bcd, dump-regs and load-regs: `I`, as an exact natural (10_state.md R26, 20_memory.md
R52). -/
def State.base (s : State) : Nat := s.i.toNat

/-- The hundreds, tens and units digits of `v`, in the order bcd stores them (43_index_memory.md R203). -/
def bcdDigits (v : Byte) : List Byte := [u8 (v.toNat / 100), u8 (v.toNat / 10 % 10), u8 (v.toNat % 10)]

/-- V0 to Vx, in the order dump-regs stores them (43_index_memory.md R204). -/
def State.regsUpTo (s : State) (x : RegIdx) : List Byte := s.v.toList.take (x.val + 1)

/-- The register file after the bytes are written to registers `j`, `j + 1`, ... in order (43_index_memory.md R205). -/
def fillRegs (v : Vector Byte 16) (j : Nat) (bytes : List Byte) : Vector Byte 16 :=
  match bytes with
  | [] => v
  | b :: rest => fillRegs (v.setIfInBounds j b) (j + 1) rest

/-- The key number in a register: above 15 it is KEY_OUT_OF_RANGE (45_input.md R264, 92_eei_decisions.md D11). -/
def keyOperand (b : Byte) : Except Halt KeyCode :=
  if h : b.toNat < 16 then .ok ⟨b.toNat, h⟩ else .error (.keyOutOfRange b)

end Sys2Proof.Machine
end

