-- ==== Sys2Proof/Machine/Flags.lean ====
section
/-! DEFINITION. The flag computations and the order of a flag writer's two writes (10_state.md R22, 42_alu.md R172).
The only flag register is VF. -/

namespace Sys2Proof.Machine

/-- A flag as the byte VF receives: 1 or 0. -/
def flagByte (c : Bool) : Byte := if c then 1 else 0

/-- The carry of add-reg: the exact sum exceeds 255 (42_alu.md R166). -/
def carryFlag (a b : Byte) : Bool := a.toNat + b.toNat > 255

/-- The flag of sub-reg on (Vx, Vy) and of subn-reg on (Vy, Vx): strictly greater (42_alu.md R167, R168). -/
def greaterFlag (a b : Byte) : Bool := a.toNat > b.toNat

/-- The flag of shr: the old bit 0 (42_alu.md R169). -/
def lowBitFlag (a : Byte) : Bool := a.getLsbD 0

/-- The flag of shl: the old bit 7 (42_alu.md R170). -/
def highBitFlag (a : Byte) : Bool := a.getLsbD 7

/-- The two writes of a flag writer in the order `order` names: `flagLast` writes Vx first and VF second, so that VF
ends as the flag when x = 15 (42_alu.md R172). -/
def State.setRegFlagIn (order : Config.VfAliasOrder) (s : State) (x : RegIdx) (b : Byte) (c : Bool) : State :=
  match order with
  | .flagLast => (s.setReg x b).setReg VF (flagByte c)
  | .resultLast => (s.setReg VF (flagByte c)).setReg x b

/-- The two writes of a flag writer, in the hardware's order (42_alu.md R172). Log 7. -/
def State.setRegFlag (s : State) (x : RegIdx) (b : Byte) (c : Bool) : State :=
  s.setRegFlagIn vfAliasOrder x b c

end Sys2Proof.Machine
end

