-- ==== Sys2Proof/Machine/Alu.lean ====
section
/-! DEFINITION. Register arithmetic and logic (42_alu.md R160 to R173). Every instruction ends with
`PC <- u16(PC + 2)`, and every operand is read before any register is written (R172). -/

namespace Sys2Proof.Machine

/-- load-imm (42_alu.md R160). -/
def execLoadImm (x : RegIdx) (kk : Byte) (s : State) : Result := .next (s.setReg x kk).advance

/-- add-imm (42_alu.md R161): wraps mod 256, no flag. Log 8. -/
def execAddImm (x : RegIdx) (kk : Byte) (s : State) : Result :=
  .next (s.setReg x (u8 ((s.reg x).toNat + kk.toNat))).advance

/-- move (42_alu.md R162). -/
def execMove (x y : RegIdx) (s : State) : Result := .next (s.setReg x (s.reg y)).advance

/-- or (42_alu.md R163). -/
def execOr (x y : RegIdx) (s : State) : Result := .next (s.setReg x (s.reg x ||| s.reg y)).advance

/-- and (42_alu.md R164). -/
def execAnd (x y : RegIdx) (s : State) : Result := .next (s.setReg x (s.reg x &&& s.reg y)).advance

/-- xor (42_alu.md R165). -/
def execXor (x y : RegIdx) (s : State) : Result := .next (s.setReg x (s.reg x ^^^ s.reg y)).advance

/-- add-reg (42_alu.md R166): the exact sum, truncated, and the carry. -/
def execAddReg (x y : RegIdx) (s : State) : Result :=
  .next (s.setRegFlag x (u8 ((s.reg x).toNat + (s.reg y).toNat)) (carryFlag (s.reg x) (s.reg y))).advance

/-- sub-reg (42_alu.md R167): `u8(a - b + 256)`, and the strict comparison a > b. -/
def execSubReg (x y : RegIdx) (s : State) : Result :=
  .next (s.setRegFlag x (u8 ((s.reg x).toNat + 256 - (s.reg y).toNat)) (greaterFlag (s.reg x) (s.reg y))).advance

/-- subn-reg (42_alu.md R168): `u8(b - a + 256)`, and the strict comparison b > a. -/
def execSubnReg (x y : RegIdx) (s : State) : Result :=
  .next (s.setRegFlag x (u8 ((s.reg y).toNat + 256 - (s.reg x).toNat)) (greaterFlag (s.reg y) (s.reg x))).advance

/-- shr (42_alu.md R169): logical, the y field ignored (30_encoding.md R76). -/
def execShr (x _y : RegIdx) (s : State) : Result :=
  .next (s.setRegFlag x (s.reg x >>> 1) (lowBitFlag (s.reg x))).advance

/-- shl (42_alu.md R170): bit 7 is lost, the y field ignored (30_encoding.md R76). -/
def execShl (x _y : RegIdx) (s : State) : Result :=
  .next (s.setRegFlag x (s.reg x <<< 1) (highBitFlag (s.reg x))).advance

/-- rand (42_alu.md R171): `V[x] <- r & kk` for the random byte r of this STEP. Log 1. -/
def execRand (x : RegIdx) (kk : Byte) (s : State) : Result :=
  .next (s.drawn.setReg x (s.randomByte &&& kk)).advance

end Sys2Proof.Machine
end

