-- ==== Sys2Proof/Machine/ControlFlow.lean ====
section
/-! DEFINITION. Control transfer (41_control_flow.md R130 to R138). No target is checked when it is set (R138). -/

namespace Sys2Proof.Machine

/-- return (41_control_flow.md R130): the entry at SP becomes PC, then `SP <- u16(SP - 2)`. -/
def execRet (s : State) : Result :=
  .next (s.commit (readWord s.mem s.sp.toNat) fun t => (s.setPc t).setSp (s.sp - 2))

/-- jump (41_control_flow.md R131). -/
def execJump (nnn : Addr12) (s : State) : Result := .next (s.setPc (zextAddr nnn))

/-- The address of the stack entry a call writes: `u16(SP + 2)` (41_control_flow.md R132). -/
def State.pushSlot (s : State) : Word := s.sp + 2

/-- call (41_control_flow.md R132): SP moves first, and PC + 2 is written at the new SP, high byte first. -/
def execCall (nnn : Addr12) (s : State) : Result :=
  .next (s.commit (writeWord s.mem s.pushSlot.toNat (s.pc + 2)) fun m =>
    ((s.setMem m).setSp s.pushSlot).setPc (zextAddr nnn))

/-- skip-eq-imm (41_control_flow.md R133). -/
def execSkipEqImm (x : RegIdx) (kk : Byte) (s : State) : Result := .next (s.skipIf (s.reg x == kk))

/-- skip-ne-imm (41_control_flow.md R134). -/
def execSkipNeImm (x : RegIdx) (kk : Byte) (s : State) : Result := .next (s.skipIf (s.reg x != kk))

/-- skip-eq-reg (41_control_flow.md R135). -/
def execSkipEqReg (x y : RegIdx) (s : State) : Result := .next (s.skipIf (s.reg x == s.reg y))

/-- skip-ne-reg (41_control_flow.md R136). -/
def execSkipNeReg (x y : RegIdx) (s : State) : Result := .next (s.skipIf (s.reg x != s.reg y))

/-- indexed-jump (41_control_flow.md R137): the register is always V0, and the sum keeps its 16 bits. -/
def execIndexedJump (nnn : Addr12) (s : State) : Result :=
  .next (s.setPc (zextAddr nnn + zextByte (s.reg 0)))

end Sys2Proof.Machine
end

