-- ==== Sys2Proof/Machine/DisplayOps.lean ====
section
/-! DEFINITION. The display instructions (44_display.md R233, R234). -/

namespace Sys2Proof.Machine

/-- clear-screen (44_display.md R233). -/
def execClearScreen (s : State) : Result := .next (s.setDisplay blankDisplay).advance

/-- draw (44_display.md R234): the coordinates and all n bytes are read first; VF is written last, always. -/
def execDraw (x y : RegIdx) (n : Nat) (s : State) : Result :=
  .next (s.commit (readBytes s.mem s.base n) fun bytes =>
    let drawn := drawSprite s.display (s.reg x).toNat (s.reg y).toNat bytes
    ((s.setDisplay drawn.1).setReg VF (flagByte drawn.2)).advance)

end Sys2Proof.Machine
end

