-- ==== Sys2Proof/Machine/IndexMemory.lean ====
section
/-! DEFINITION. Index register and memory transfer (43_index_memory.md R200 to R205). `I` is changed by the first
three only. -/

namespace Sys2Proof.Machine

/-- set-index (43_index_memory.md R200). -/
def execSetIndex (nnn : Addr12) (s : State) : Result := .next (s.setIndex (zextAddr nnn)).advance

/-- add-index (43_index_memory.md R201): 16 bits, no flag. -/
def execAddIndex (x : RegIdx) (s : State) : Result := .next (s.setIndex (s.i + zextByte (s.reg x))).advance

/-- sprite-addr (43_index_memory.md R202): `V[x] * 5`, not masked to a nibble. -/
def execSpriteAddr (x : RegIdx) (s : State) : Result := .next (s.setIndex (zextByte (s.reg x) * 5)).advance

/-- bcd (43_index_memory.md R203): three digits at I, I+1, I+2. -/
def execBcd (x : RegIdx) (s : State) : Result :=
  .next (s.commit (writeBytes s.mem s.base (bcdDigits (s.reg x))) fun m => (s.setMem m).advance)

/-- dump-regs (43_index_memory.md R204): V0 to Vx at I and upwards, I unchanged. -/
def execDumpRegs (x : RegIdx) (s : State) : Result :=
  .next (s.commit (writeBytes s.mem s.base (s.regsUpTo x)) fun m => (s.setMem m).advance)

/-- load-regs (43_index_memory.md R205): V0 to Vx from I and upwards, I unchanged. -/
def execLoadRegs (x : RegIdx) (s : State) : Result :=
  .next (s.commit (readBytes s.mem s.base (x.val + 1)) fun bytes => (s.setRegs (fillRegs s.v 0 bytes)).advance)

end Sys2Proof.Machine
end

