-- ==== Sys2Proof/Machine/Input.lean ====
section
/-! DEFINITION. The key instructions (45_input.md R264 to R266). -/

namespace Sys2Proof.Machine

/-- skip-key-down (45_input.md R264). -/
def execSkipKeyDown (x : RegIdx) (s : State) : Result :=
  .next (s.commit (keyOperand (s.reg x)) fun k => s.skipIf (s.key k))

/-- skip-key-up (45_input.md R265). -/
def execSkipKeyUp (x : RegIdx) (s : State) : Result :=
  .next (s.commit (keyOperand (s.reg x)) fun k => s.skipIf (!s.key k))

/-- wait-key (45_input.md R266): `W <- some(x)`, PC unchanged. -/
def execWaitKey (x : RegIdx) (s : State) : Result := .next (s.setWait (some x))

end Sys2Proof.Machine
end

