-- ==== Sys2Proof/Machine/Timers.lean ====
section
/-! DEFINITION. The timer instructions (46_timers.md R291 to R293). -/

namespace Sys2Proof.Machine

/-- load-delay (46_timers.md R291). -/
def execLoadDelay (x : RegIdx) (s : State) : Result := .next (s.setReg x s.dt).advance

/-- set-delay (46_timers.md R292). -/
def execSetDelay (x : RegIdx) (s : State) : Result := .next (s.setDt (s.reg x)).advance

/-- set-sound (46_timers.md R293). -/
def execSetSound (x : RegIdx) (s : State) : Result := .next (s.setSt (s.reg x)).advance

end Sys2Proof.Machine
end

