-- ==== Sys2Proof/Machine/Dispatch.lean ====
section
/-! DEFINITION. The dispatch: one arm per instruction, each one call of its meaning (40_engine.md R103). -/

namespace Sys2Proof.Machine

/-- The execution of a decoded instruction in the running state `s` (40_engine.md R103). The checks that `s` is
neither halted nor suspended are STEP's (Machine/Cycle.lean). Log 15. -/
def exec (i : Instr) (s : State) : Host.Outcome State Fault Refusal :=
  match i with
  | .clearScreen => Sys2Proof.Machine.execClearScreen s
  | .ret => Sys2Proof.Machine.execRet s
  | .jump nnn => Sys2Proof.Machine.execJump nnn s
  | .call nnn => Sys2Proof.Machine.execCall nnn s
  | .skipEqImm x kk => Sys2Proof.Machine.execSkipEqImm x kk s
  | .skipNeImm x kk => Sys2Proof.Machine.execSkipNeImm x kk s
  | .skipEqReg x y => Sys2Proof.Machine.execSkipEqReg x y s
  | .loadImm x kk => Sys2Proof.Machine.execLoadImm x kk s
  | .addImm x kk => Sys2Proof.Machine.execAddImm x kk s
  | .move x y => Sys2Proof.Machine.execMove x y s
  | .orReg x y => Sys2Proof.Machine.execOr x y s
  | .andReg x y => Sys2Proof.Machine.execAnd x y s
  | .xorReg x y => Sys2Proof.Machine.execXor x y s
  | .addReg x y => Sys2Proof.Machine.execAddReg x y s
  | .subReg x y => Sys2Proof.Machine.execSubReg x y s
  | .shr x y => Sys2Proof.Machine.execShr x y s
  | .subnReg x y => Sys2Proof.Machine.execSubnReg x y s
  | .shl x y => Sys2Proof.Machine.execShl x y s
  | .skipNeReg x y => Sys2Proof.Machine.execSkipNeReg x y s
  | .setIndex nnn => Sys2Proof.Machine.execSetIndex nnn s
  | .indexedJump nnn => Sys2Proof.Machine.execIndexedJump nnn s
  | .rand x kk => Sys2Proof.Machine.execRand x kk s
  | .draw x y n => Sys2Proof.Machine.execDraw x y n s
  | .skipKeyDown x => Sys2Proof.Machine.execSkipKeyDown x s
  | .skipKeyUp x => Sys2Proof.Machine.execSkipKeyUp x s
  | .loadDelay x => Sys2Proof.Machine.execLoadDelay x s
  | .waitKey x => Sys2Proof.Machine.execWaitKey x s
  | .setDelay x => Sys2Proof.Machine.execSetDelay x s
  | .setSound x => Sys2Proof.Machine.execSetSound x s
  | .addIndex x => Sys2Proof.Machine.execAddIndex x s
  | .spriteAddr x => Sys2Proof.Machine.execSpriteAddr x s
  | .bcd x => Sys2Proof.Machine.execBcd x s
  | .dumpRegs x => Sys2Proof.Machine.execDumpRegs x s
  | .loadRegs x => Sys2Proof.Machine.execLoadRegs x s

end Sys2Proof.Machine
end

