-- ==== Sys2Proof/Machine/Cycle.lean ====
section
/-! DEFINITION. The step cycle: the body of STEP (40_engine.md R103), in the order of its checks (60_exceptions.md
R312), and the place from which STEP fetches. -/

namespace Sys2Proof.Machine

/-- STEP (40_engine.md R103): halted, no effect (R107); suspended, no effect (R106); then fetch, decode, execute. -/
def cycle (s : State) : Result :=
  if s.halt.isSome then .next s
  else if s.wait.isSome then .next s
  else
    match fetchInstr s with
    | .error h => .next (s.raiseHalt h)
    | .ok i => exec i s

/-- A state that the next STEP does fetch in: neither halted nor suspended, PC kept where it can be fetched from, and
the reset entry 0x200 otherwise. Log 11. -/
def State.readyToFetch (s : State) : State :=
  { s with halt := none, wait := none, pc := if s.pc.toNat + 1 > 0xFFF then 0x0200 else s.pc }

/-- The memory with the word `w` stored at `a`, high byte first (20_memory.md R53). -/
def storeWord (m : Memory) (a : Nat) (w : Word) : Memory := (m.write a (highByte w)).write (a + 1) (lowByte w)

/-- `s` made ready to fetch the word `w`. -/
def State.withWord (s : State) (w : Word) : State :=
  let t := s.readyToFetch
  t.setMem (storeWord t.mem t.pc.toNat w)

end Sys2Proof.Machine
end

