-- ==== Sys2Proof/Machine/Step.lean ====
section
/-! DEFINITION. The step of the machine, which is the operation STEP (40_engine.md R103), and the state in which the
next STEP fetches a given word. -/

namespace Sys2Proof.Machine

/-- One STEP (40_engine.md R103). The random byte of this STEP is `State.randomByte`: the oldest of `randIn`, or a
free value (log 1). -/
def step (s : State) : Host.Outcome State Fault Refusal := cycle s

/-- `s` with the instruction whose bits are `w` (the bits above `nbits` zero) stored at PC, so that the very next
step fetches and runs it. In a state that would not fetch (halted, suspended, PC out of range) it also undoes what
keeps it from fetching. Logs 9 and 11. -/
def State.withFetchWord (s : State) (nbits w : Nat) : State := s.withWord (u16 (w % 2 ^ nbits))

end Sys2Proof.Machine
end

