-- ==== Sys2Proof/Machine/HostOps.lean ====
section
/-! DEFINITION. The host's operations and read ports (40_engine.md R100, R101): RESET, LOAD, STEP(r), TICK, PRESS and
RELEASE as functions of the state, and PIXEL, KEY and STATUS. Which of them comes next is the host's free choice
(R100): a claim about a run quantifies over a list of them. Log 10. -/

namespace Sys2Proof.Machine

/-- One operation of the driver-facing write surface (40_engine.md R100). -/
inductive HostOp where
  /-- RESET (70_reset_and_hazards.md R340). -/
  | reset
  /-- LOAD(bytes) (70_reset_and_hazards.md R341). -/
  | load (bytes : List Byte)
  /-- STEP(r) with its random byte (40_engine.md R103). -/
  | step (r : Byte)
  /-- TICK (46_timers.md R290). -/
  | tick
  /-- PRESS(k) (45_input.md R261). -/
  | press (k : KeyCode)
  /-- RELEASE(k) (45_input.md R262). -/
  | release (k : KeyCode)
  deriving DecidableEq, Repr

/-- An operation that has no effect while the core is halted (40_engine.md R107). -/
def State.unlessHalted (s : State) (t : State) : State := if s.halt.isSome then s else t

/-- RESET, accepted in every state: the state of 10_state.md R33. It is the only way out of a halt (60_exceptions.md
R314). The model's own random fields stay, so that no two runs are said to draw the same bytes (log 2). -/
def resetOp (s : State) : State := State.reset.setRandom s.randIn s.draws

/-- The longest image: 3584 = 0x1000 - 0x200 bytes (70_reset_and_hazards.md R341). -/
def maxImage : Nat := 0xE00

/-- The address an image is copied to (70_reset_and_hazards.md R341). -/
def progBase : Nat := 0x200

/-- The memory part of LOAD: too long an image is IMAGE_TOO_LONG (70_reset_and_hazards.md R341). -/
def loadImage (m : Memory) (bytes : List Byte) : Except Halt Memory :=
  if bytes.length > maxImage then .error (.imageTooLong bytes.length) else writeBytes m progBase bytes

/-- LOAD(bytes) (70_reset_and_hazards.md R341). -/
def loadOp (bytes : List Byte) (s : State) : State :=
  s.unlessHalted (s.commit (loadImage s.mem bytes) s.setMem)

/-- A countdown that saturates at 0 (46_timers.md R290). -/
def countDown (b : Byte) : Byte := if b = 0 then 0 else b - 1

/-- TICK (46_timers.md R290). -/
def tickOp (s : State) : State := s.unlessHalted ((s.setDt (countDown s.dt)).setSt (countDown s.st))

/-- The end of a key-wait for register `x` by key `k` (45_input.md R261). -/
def State.resolveWait (s : State) (x : RegIdx) (k : KeyCode) : State :=
  ((s.setReg x (keyByte k)).setPc (s.pc + 2)).setWait none

/-- PRESS(k) (45_input.md R261). -/
def pressOp (k : KeyCode) (s : State) : State :=
  s.unlessHalted (match s.wait with
    | none => s.setKey k true
    | some x => (s.setKey k true).resolveWait x k)

/-- RELEASE(k) (45_input.md R262). -/
def releaseOp (k : KeyCode) (s : State) : State := s.unlessHalted (s.setKey k false)

/-- STEP(r): a step whose random byte is `r`; whether or not it was read, `r` is gone afterwards (40_engine.md R103).
Log 1. -/
def stepWith (r : Byte) (s : State) : Result :=
  match step (s.setRandom [r] s.draws) with
  | .next t => .next (t.setRandom s.randIn s.draws)
  | .fault f => .fault f
  | .refused q => .refused q

/-- One operation of the host (40_engine.md R100). -/
def HostOp.apply (op : HostOp) (s : State) : Result :=
  match op with
  | .reset => .next (resetOp s)
  | .load bytes => .next (loadOp bytes s)
  | .step r => stepWith r s
  | .tick => .next (tickOp s)
  | .press k => .next (pressOp k s)
  | .release k => .next (releaseOp k s)

/-- The host's operations one after another: each "reads the state the previous operation produced" (20_memory.md
R61). -/
def runOps (ops : List HostOp) (s : State) : Result :=
  match ops with
  | [] => .next s
  | op :: rest =>
    match op.apply s with
    | .next t => runOps rest t
    | .fault f => .fault f
    | .refused q => .refused q

/-! ## Read ports -/

/-- The PIXEL port: `D[row][col]` (40_engine.md R101). The KEY port is `State.key`. -/
def State.pixel (s : State) (col : ColIdx) (row : RowIdx) : Bool := s.display.get col row

/-- What the STATUS port returns (40_engine.md R101). -/
inductive Status where
  | running
  | awaiting (x : RegIdx)
  | halted (h : Halt)
  deriving DecidableEq, Repr

/-- The STATUS port (40_engine.md R101). -/
def State.status (s : State) : Status :=
  match s.halt with
  | some h => .halted h
  | none =>
    match s.wait with
    | some x => .awaiting x
    | none => .running

end Sys2Proof.Machine
end

