-- ==== Sys2Proof/Safety.lean ====
section
/-! DEFINITION. The terms in which claims are stated: when STEP executes, what a frame is, which instructions have
which effect, and the invariant of every reachable state (10_state.md R34). -/

namespace Sys2Proof.Machine

/-- The FSM state NORMAL, in which STEP executes: neither halted nor suspended (45_input.md R263). -/
abbrev State.running (s : State) : Prop := s.halt = none ∧ s.wait = none

/-- The PC from which STEP can fetch (40_engine.md R103). -/
abbrev State.fetchable (s : State) : Prop := s.pc.toNat + 1 ≤ 0xFFF

/-- The 16-bit number at PC, high byte first, read byte by byte (30_encoding.md R70). -/
def State.numberAtPc (s : State) : Nat := (s.mem.read s.pc.toNat).toNat * 256 + (s.mem.read (s.pc.toNat + 1)).toNat

/-! ## Frames -/

/-- A part of the state other than the general registers and the program counter. -/
inductive Part where
  | memory | index | sp | dt | st | display | keys | wait | halt | random
  deriving DecidableEq, Repr

/-- The part is the same in both states. Memory is compared through the read of every byte. -/
def Part.same (p : Part) (s t : State) : Prop :=
  match p with
  | .memory => ∀ a, t.mem.read a = s.mem.read a
  | .index => t.i = s.i
  | .sp => t.sp = s.sp
  | .dt => t.dt = s.dt
  | .st => t.st = s.st
  | .display => ∀ col row, t.pixel col row = s.pixel col row
  | .keys => ∀ k, t.key k = s.key k
  | .wait => t.wait = s.wait
  | .halt => t.halt = s.halt
  | .random => t.randIn = s.randIn ∧ t.draws = s.draws

/-- `t` is as `s` but for the registers `regs`, the parts `parts` and the program counter. -/
def Frame (regs : List RegIdx) (parts : List Part) (s t : State) : Prop :=
  (∀ j, j ∉ regs → t.reg j = s.reg j) ∧ ∀ p, p ∉ parts → p.same s t

/-- `t` is as `s` but for the registers `regs` and the parts `parts`, the program counter included. -/
def FrameAndPc (regs : List RegIdx) (parts : List Part) (s t : State) : Prop :=
  Frame regs parts s t ∧ t.pc = s.pc

end Sys2Proof.Machine

namespace Sys2Proof

/-! ## Classes of instructions -/

/-- The six instructions that write VF as a side effect (10_state.md R22). -/
def Instr.writesFlag : Instr → Bool
  | .addReg _ _ | .subReg _ _ | .subnReg _ _ | .shr _ _ | .shl _ _ | .draw _ _ _ => true
  | _ => false

/-- The register an instruction names as its destination: `x` itself, and for load-regs every register up to `x`
(10_state.md R21). wait-key's register is written by PRESS, not by the instruction. -/
def Instr.namesDest (i : Instr) (j : RegIdx) : Bool :=
  match i with
  | .loadImm x _ | .addImm x _ | .move x _ | .orReg x _ | .andReg x _ | .xorReg x _ | .addReg x _ | .subReg x _
  | .subnReg x _ | .shr x _ | .shl x _ | .rand x _ | .loadDelay x => j = x
  | .loadRegs x => j ≤ x
  | _ => false

/-- The instructions that touch memory, and so can halt with MEMORY_OUT_OF_RANGE (60_exceptions.md R310). -/
def Instr.touchesMemory : Instr → Bool
  | .ret | .call _ | .draw _ _ _ | .bcd _ | .dumpRegs _ | .loadRegs _ => true
  | _ => false

/-- The instructions that name a key by a register, and so can halt with KEY_OUT_OF_RANGE (60_exceptions.md R310). -/
def Instr.readsKey : Instr → Bool
  | .skipKeyDown _ | .skipKeyUp _ => true
  | _ => false

/-- Which parts of the state, registers and PC apart, an instruction may change: the lists of 10_state.md R26 to R31
and 20_memory.md R51. The part `halt` is in the list of an instruction that can halt (60_exceptions.md R310). -/
def Instr.writes (i : Instr) : List Machine.Part :=
  match i with
  | .clearScreen => [.display]
  | .ret => [.sp, .halt]
  | .call _ => [.memory, .sp, .halt]
  | .setIndex _ | .addIndex _ | .spriteAddr _ => [.index]
  | .rand _ _ => [.random]
  | .draw _ _ _ => [.display, .halt]
  | .skipKeyDown _ | .skipKeyUp _ => [.halt]
  | .waitKey _ => [.wait]
  | .setDelay _ => [.dt]
  | .setSound _ => [.st]
  | .bcd _ | .dumpRegs _ => [.memory, .halt]
  | .loadRegs _ => [.halt]
  | .jump _ | .skipEqImm _ _ | .skipNeImm _ _ | .skipEqReg _ _ | .loadImm _ _ | .addImm _ _ | .move _ _ | .orReg _ _
  | .andReg _ _ | .xorReg _ _ | .addReg _ _ | .subReg _ _ | .shr _ _ | .subnReg _ _ | .shl _ _ | .skipNeReg _ _
  | .indexedJump _ | .loadDelay _ => []

end Sys2Proof

namespace Sys2Proof.Machine

/-! ## Sprites and runs -/

/-- The pixel `(col, row)` lies under a set bit of the sprite `bytes` whose top left bit stands at `(col0, row0)`:
byte `i` is row `row0 + i`, bit `b` from the left column `col0 + b`, exact naturals (44_display.md R232). -/
def spriteCovers (col0 row0 : Nat) (bytes : List Byte) (col : ColIdx) (row : RowIdx) : Prop :=
  ∃ i b, b < 8 ∧ row.val = row0 + i ∧ col.val = col0 + b ∧ (bytes.getD i 0).getLsbD (7 - b) = true

/-- The n sprite bytes a draw reads: M[I], M[I+1], ... (44_display.md R234). -/
def State.spriteBytes (s : State) (n : Nat) : List Byte := (List.range n).map fun j => s.mem.read (s.base + j)

/-- The same instruction executed `n` times in a row. -/
def execMany (i : Instr) (n : Nat) (s : State) : Result :=
  match n with
  | 0 => .next s
  | k + 1 =>
    match exec i s with
    | .next t => execMany i k t
    | .fault f => .fault f
    | .refused q => .refused q

/-! ## The invariant -/

/-- What a recorded halt says of the state it stands in, which is the failing operation's pre-state plus `H`
(60_exceptions.md R310, R313). A reason that STEP raises stands in a state that is not suspended: the PC, the word at
PC, or the instruction fetched there has that reason and that info value. For MEMORY_OUT_OF_RANGE, executing the
fetched instruction in the state without its `H` gives this very state, so raises this very address. A LOAD leaves
nothing of its image in the state, so of IMAGE_TOO_LONG only the bound on the length is said. -/
def Halt.truthful (h : Halt) (s : State) : Prop :=
  match h with
  | .unknownInstruction w =>
    s.wait = none ∧ s.fetchable ∧ w.toNat = s.numberAtPc ∧ decode w = .error (.unknownInstruction w)
  | .fetchOutOfRange p => s.wait = none ∧ p = s.pc ∧ ¬ s.fetchable
  | .memoryOutOfRange a =>
    s.wait = none ∧ memSize ≤ a ∧
      ∃ i, fetchInstr s = .ok i ∧ i.touchesMemory = true ∧ exec i { s with halt := none } = .next { s with halt := some h }
  | .keyOutOfRange v =>
    s.wait = none ∧ 15 < v.toNat ∧
      ∃ x, (fetchInstr s = .ok (.skipKeyDown x) ∨ fetchInstr s = .ok (.skipKeyUp x)) ∧ s.reg x = v
  | .imageTooLong n => maxImage < n

/-- The invariant: memory is in its canonical form (the model's choice, log 12; so it lists no address outside memory),
SP is even (10_state.md R34), a suspended core stands at an instruction it has fetched (45_input.md R266), and a
recorded halt is true (60_exceptions.md R313). -/
structure Inv (s : State) : Prop where
  mem_wf : s.mem.wf
  sp_even : s.sp.toNat % 2 = 0
  wait_fetched : s.wait ≠ none → s.fetchable
  halt_true : ∀ h, s.halt = some h → h.truthful s

end Sys2Proof.Machine
end

