-- ==== Sys2Proof/Certificates/Slice0/Obligations.lean ====
section
/-! DEFINITION. The statements for the provers, in the order of the rules of spec/. A word in hexadecimal with its
operands added is the pattern of 30_encoding.md R74; `u8`, `u16` are the truncations of 00_scope.md R7; a sum or a
difference stands as a natural number, as the spec's pseudocode has it. A statement about `exec` holds in halted and
suspended states too, in which STEP does not reach it (log 15). -/

open Sys2Proof Sys2Proof.Machine

/-! ## Encoding (30_encoding.md) -/

/-- Words written out from the patterns of R74, at least one of each family and format, decode to what they stand
for. Sanity. -/
def Obligations.WordsWrittenOutDecode : Prop :=
  decode 0x00E0 = .ok .clearScreen ∧ decode 0x00EE = .ok .ret ∧ decode 0x1ABC = .ok (.jump 0xABC) ∧
  decode 0x33F0 = .ok (.skipEqImm 3 0xF0) ∧ decode 0x8AB5 = .ok (.subReg 10 11) ∧ decode 0x81F6 = .ok (.shr 1 15) ∧
  decode 0xD12F = .ok (.draw 1 2 15) ∧ decode 0xE5A1 = .ok (.skipKeyUp 5) ∧ decode 0xF70A = .ok (.waitKey 7) ∧
  decode 0xF265 = .ok (.loadRegs 2) ∧ decode 0xFE15 = .ok (.setDelay 14)

/-- The decoder reads back every well-formed instruction from the bytes the encoder gives it, whatever follows. -/
def Obligations.DecodeOfEncodeIsIdentity : Prop :=
  ∀ (i : Instr) (rest : List Byte), i.wf = true →
    decode (encode i) = .ok i ∧ decodeBytes (encodeBytes i ++ rest) = .ok (i, rest)

/-- A word that decodes is the encoding of what it decodes to, which is well-formed: no bit is dropped. For shr and shl
this holds by the model's own choice (log 5): the term keeps the y field, so the sixteen words of one shift are sixteen
terms, where 30_encoding.md R76 has every y select the one instruction and R80 writes it with y = 0. -/
def Obligations.EncodeOfDecodeIsTheWord : Prop :=
  ∀ (w : Word) (i : Instr), decode w = .ok i → i.wf = true ∧ encode i = w

/-- R75: at most one row of the opcode table matches a word; a word decodes exactly when a row matches (clauses 2 and
3), and then to an instruction of that row's name; a word that matches none is UNKNOWN, and executing it halts with the
raw word. The first clause is the spec's own inference (R75: "At most one row matches any word [derived: from rule R74"). -/
def Obligations.DecoderIsTheOpcodeTable : Prop :=
  (∀ w : Word, (opcodeTable.filter fun r => r.matches w).length ≤ 1) ∧
  (∀ (w : Word) (i : Instr), decode w = .ok i →
    ∃ r ∈ opcodeTable, r.matches w = true ∧ r.mnemonic = i.mnemonic) ∧
  (∀ r ∈ opcodeTable, ∀ w : Word, r.matches w = true → ∃ i, decode w = .ok i ∧ i.mnemonic = r.mnemonic) ∧
  (∀ w : Word, (∀ r ∈ opcodeTable, r.matches w = false) → decode w = .error (.unknownInstruction w)) ∧
  ∀ (s : State) (w : Word), s.running → s.fetchable → w.toNat = s.numberAtPc →
    (∀ r ∈ opcodeTable, r.matches w = false) → step s = .next { s with halt := some (.unknownInstruction w) }

/-- R77: the unknown words are exactly those of the six listed shapes, with the listed counts; every one halts with
UNKNOWN_INSTRUCTION. R77 is the spec's own inference ("[derived: from rule R74, rule R75 and rule R76]"). -/
def Obligations.UnknownWordsAreTheListedOnes : Prop :=
  let shape (w : Nat) : Bool :=
    let hi := w / 4096
    let lo := w % 16
    let kk := w % 256
    (hi == 0 && w != 0x00E0 && w != 0x00EE) || (hi == 5 && lo != 0) ||
    (hi == 8 && [0x8, 0x9, 0xA, 0xB, 0xC, 0xD, 0xF].contains lo) || (hi == 9 && lo != 0) ||
    (hi == 0xE && !([0x9E, 0xA1].contains kk)) ||
    (hi == 0xF && !([0x07, 0x0A, 0x15, 0x18, 0x1E, 0x29, 0x33, 0x55, 0x65].contains kk))
  let count (hi : Nat) : Nat := ((List.range 4096).filter fun n => shape (hi * 4096 + n)).length
  (∀ w : Word, (∃ e, decode w = .error e) ↔ shape w.toNat = true) ∧
  (∀ (s : State) (w : Word), s.running → s.fetchable → w.toNat = s.numberAtPc → shape w.toNat = true →
    step s = .next { s with halt := some (.unknownInstruction w) }) ∧
  count 0x0 = 4094 ∧ count 0x5 = 3840 ∧ count 0x8 = 1792 ∧ count 0x9 = 3840 ∧ count 0xE = 4064 ∧ count 0xF = 3952 ∧
  (∀ hi, hi < 16 → hi ∉ [0x0, 0x5, 0x8, 0x9, 0xE, 0xF] → count hi = 0)

/-! ## Memory (20_memory.md) -/

/-- R57: a write is read back and changes only its byte; at the model's checked accesses and in every memory. -/
def Obligations.WriteChangesOnlyItsByte : Prop :=
  ∀ (m : Memory) (a : Nat) (b : Byte), a < 0x1000 →
    ∃ m', writeByte m a b = .ok m' ∧ readByte m' a = .ok b ∧ ∀ a', a' ≠ a → readByte m' a' = readByte m a'

/-- R52, its check: an access of one or more bytes applies when every address is at most 0xFFF; otherwise it raises
MEMORY_OUT_OF_RANGE with the lowest address out of range, and never wraps. -/
def Obligations.AccessReportsLowestBadAddress : Prop :=
  ∀ (m : Memory) (a : Nat) (bytes : List Byte), bytes ≠ [] →
    (a + bytes.length ≤ 0x1000 → ∃ m', writeBytes m a bytes = .ok m' ∧ readBytes m' a bytes.length = .ok bytes) ∧
    (0x1000 < a + bytes.length →
      (∃ e, writeBytes m a bytes = .error (.memoryOutOfRange e) ∧
        readBytes m a bytes.length = .error (.memoryOutOfRange e) ∧
        0x1000 ≤ e ∧ a ≤ e ∧ e < a + bytes.length ∧ ∀ e', a ≤ e' → e' < e → e' < 0x1000))

/-- R53: the two-byte quantities are big-endian, read and written. -/
def Obligations.WordsAreBigEndian : Prop :=
  ∀ (m : Memory) (a : Nat) (w : Word), a + 1 < 0x1000 →
    (∃ m', writeWord m a w = .ok m' ∧ (m'.read a).toNat = w.toNat / 256 ∧ (m'.read (a + 1)).toNat = w.toNat % 256 ∧
      ∀ a', a' ≠ a → a' ≠ a + 1 → m'.read a' = m.read a') ∧
    ∃ v, readWord m a = .ok v ∧ v.toNat = (m.read a).toNat * 256 + (m.read (a + 1)).toNat

/-- Two memories in canonical form whose every byte reads the same are the same list: the form is canonical. The
form is the model's choice (log 12). -/
def Obligations.EqualReadsMeanEqualMemory : Prop :=
  ∀ m m' : Memory, m.wf → m'.wf → (∀ a, a < 0x1000 → m.read a = m'.read a) → m = m'

/-- R63: bytes stored by an instruction into the next instruction's place are what the very next STEP fetches:
dump-regs V1 with I at PC + 2 is followed by the instruction whose word is V0, V1. R63 is the spec's own inference
("[derived: from rule R61 and 40_engine.md rule R103]"). -/
def Obligations.StoredCodeIsFetchedNext : Prop :=
  ∀ (s : State) (j : Instr), s.running → fetchInstr s = .ok (.dumpRegs 1) → s.i.toNat = s.pc.toNat + 2 →
    s.pc.toNat + 3 ≤ 0xFFF → decode (u16 ((s.reg 0).toNat * 256 + (s.reg 1).toNat)) = .ok j →
    ∃ t, step s = .next t ∧ step t = exec j t

/-! ## The step cycle (40_engine.md, 60_exceptions.md) -/

/-- A running machine whose bytes at PC decode to an instruction executes exactly it. -/
def Obligations.StepExecutesTheDecodedInstruction : Prop :=
  ∀ (s : State) (i : Instr) (rest : List Byte), s.running → s.fetchable →
    decodeBytes (s.mem.read s.pc.toNat :: s.mem.read (s.pc.toNat + 1) :: rest) = .ok (i, rest) → step s = exec i s

/-- R103: STEP's checks in their order: halted and suspended states are left alone; then the fetch range; then the
big-endian word at PC is decoded; UNKNOWN halts, an instruction is executed. -/
def Obligations.StepFollowsItsPseudocode : Prop :=
  ∀ s : State,
    (s.halt ≠ none → step s = .next s) ∧
    (s.halt = none → s.wait ≠ none → step s = .next s) ∧
    (s.running → s.pc.toNat + 1 > 0xFFF → step s = .next { s with halt := some (.fetchOutOfRange s.pc) }) ∧
    (s.running → s.pc.toNat + 1 ≤ 0xFFF → ∀ w : Word,
      w.toNat = (s.mem.read s.pc.toNat).toNat * 256 + (s.mem.read (s.pc.toNat + 1)).toNat →
      (∀ e, decode w = .error e → step s = .next { s with halt := some (.unknownInstruction w) }) ∧
      ∀ i, decode w = .ok i → step s = exec i s)

/-- The word `withFetchWord` places is the one the next step runs, from every state. The model's own aid (logs 9 and
11). -/
def Obligations.PlacedWordRunsNext : Prop :=
  ∀ (s : State) (w : Word) (i : Instr), decode w = .ok i →
    step (s.withFetchWord 16 w.toNat) = exec i (s.withFetchWord 16 w.toNat) ∧
    decodeTableWord 16 w.toNat = some i

/-- R103, "rand alone reads r": on a state whose instruction is no rand, STEP gives the same state for every r. -/
def Obligations.OnlyRandReadsTheRandomByte : Prop :=
  ∀ (s : State) (r r' : Byte), (s.running → ∀ x kk, fetchInstr s ≠ .ok (.rand x kk)) → stepWith r s = stepWith r' s

/-- R106: a STEP while suspended changes nothing; the suspension ends at a PRESS and at a RESET and at no other
operation, and an operation other than STEP still acts. -/
def Obligations.SuspensionEndsOnlyAtPressOrReset : Prop :=
  ∀ (s : State) (x : RegIdx), s.halt = none → s.wait = some x →
    step s = .next s ∧ (∀ r, (HostOp.step r).apply s = .next s) ∧
    (∀ op t, HostOp.apply op s = .next t →
      (t.wait = some x ∨ (t.wait = none ∧ ((∃ k, op = .press k) ∨ op = .reset)))) ∧
    (∀ k, ∃ t, (HostOp.press k).apply s = .next t ∧ t.wait = none ∧ t.key k = true ∧ t.reg x = u8 k.val) ∧
    (∃ t, HostOp.reset.apply s = .next t ∧ t.wait = none) ∧
    (∀ k, ∃ t, (HostOp.release k).apply s = .next t ∧ t.key k = false) ∧
    (∃ t, HostOp.tick.apply s = .next t ∧ t.dt.toNat = s.dt.toNat - 1 ∧ t.st.toNat = s.st.toNat - 1) ∧
    ∀ bytes : List Byte, bytes.length ≤ 0xE00 → ∃ t, (HostOp.load bytes).apply s = .next t ∧
      ∀ j (h : j < bytes.length), t.mem.read (0x200 + j) = bytes[j]

/-- R107: an operation that halts leaves its pre-state with only H set; after a halt every operation but RESET leaves
the state as it is; RESET leaves the halted state. -/
def Obligations.HaltKeepsThePreStateAndSticks : Prop :=
  (∀ (op : HostOp) (s t : State) (h : Halt), s.halt = none → op.apply s = .next t → t.halt = some h →
    t = { s with halt := some h }) ∧
  (∀ (s t : State) (h : Halt), s.halt = none → step s = .next t → t.halt = some h →
    t = { s with halt := some h }) ∧
  (∀ (op : HostOp) (s : State), s.halt ≠ none → op ≠ .reset → op.apply s = .next s) ∧
  (∀ s : State, s.halt ≠ none → step s = .next s) ∧
  ∀ s : State, ∃ t, HostOp.reset.apply s = .next t ∧ t.halt = none

/-- Every operation of the host, in every state, answers a next state: the model neither faults nor refuses. This is
the model's own form (log 6: a halt of R107 is a next state), and so is an instruction executed in a halted or suspended
state (log 15). -/
def Obligations.EveryOperationAnswersANextState : Prop :=
  (∀ s : State, ∃ t, step s = .next t) ∧ (∀ (i : Instr) (s : State), ∃ t, exec i s = .next t) ∧
  ∀ (ops : List HostOp) (s : State), ∃ t, runOps ops s = .next t

/-- Which instruction halts, with which reason, and when no halt is possible: a memory instruction with an address of
0x1000 or more, a skip-key instruction with a key above 15, and no other instruction. -/
def Obligations.InstructionsHaltOnlyAsListed : Prop :=
  ∀ (i : Instr) (s t : State), exec i s = .next t → t.halt ≠ s.halt →
    (i.touchesMemory = true ∧ ∃ a, t.halt = some (.memoryOutOfRange a) ∧ 0x1000 ≤ a) ∨
    (i.readsKey = true ∧ ∃ x, (i = .skipKeyDown x ∨ i = .skipKeyUp x) ∧ 15 < (s.reg x).toNat ∧
      t.halt = some (.keyOutOfRange (s.reg x)))

/-- A jump to its own address leaves the state as it is, and keeps the machine running. -/
def Obligations.SelfJumpIsAFixedPoint : Prop :=
  ∀ (s : State) (nnn : Addr12), s.running → s.pc.toNat = nnn.toNat → s.pc.toNat ≤ 0xFFE →
    s.numberAtPc = 0x1000 + nnn.toNat → step s = .next s

/-! ## Control transfer (41_control_flow.md) -/

/-- R130. -/
def Obligations.ReturnPopsTheStackEntry : Prop :=
  decode 0x00EE = .ok .ret ∧ ∀ s : State,
    (s.sp.toNat ≤ 0xFFE → ∃ t, exec .ret s = .next t ∧
      t.pc.toNat = (s.mem.read s.sp.toNat).toNat * 256 + (s.mem.read (s.sp.toNat + 1)).toNat ∧
      t.sp = u16 (s.sp.toNat + 65536 - 2) ∧ Frame [] [.sp] s t) ∧
    (0xFFE < s.sp.toNat → exec .ret s = .next { s with
      halt := some (.memoryOutOfRange (if 0x1000 ≤ s.sp.toNat then s.sp.toNat else s.sp.toNat + 1)) })

/-- R131. -/
def Obligations.JumpGoesToItsAddress : Prop :=
  ∀ nnn : Addr12, decode (u16 (0x1000 + nnn.toNat)) = .ok (.jump nnn) ∧
    ∀ s, ∃ t, exec (.jump nnn) s = .next t ∧ t.pc = u16 nnn.toNat ∧ Frame [] [] s t

/-- R132. The stack entry is stored at `s.pushSlot`, the address `execCall` stores at. -/
def Obligations.CallPushesTheReturnAddress : Prop :=
  ∀ nnn : Addr12, decode (u16 (0x2000 + nnn.toNat)) = .ok (.call nnn) ∧ ∀ s : State,
    s.pushSlot = u16 (s.sp.toNat + 2) ∧
    (s.pushSlot.toNat ≤ 0xFFE → ∃ t, exec (.call nnn) s = .next t ∧
      (t.mem.read s.pushSlot.toNat).toNat = (s.pc.toNat + 2) % 65536 / 256 ∧
      (t.mem.read (s.pushSlot.toNat + 1)).toNat = (s.pc.toNat + 2) % 256 ∧
      (∀ a, a ≠ s.pushSlot.toNat → a ≠ s.pushSlot.toNat + 1 → t.mem.read a = s.mem.read a) ∧
      t.sp = u16 (s.sp.toNat + 2) ∧ t.pc = u16 nnn.toNat ∧ Frame [] [.memory, .sp] s t) ∧
    (0xFFE < s.pushSlot.toNat → exec (.call nnn) s = .next { s with halt := some (.memoryOutOfRange
      (if 0x1000 ≤ s.pushSlot.toNat then s.pushSlot.toNat else s.pushSlot.toNat + 1)) })

/-- A call whose entry fits, then a return: PC is the call's address plus 2, SP is as before the call, and only the
two bytes of the entry have changed (90_conflicts.md C3). -/
def Obligations.CallThenReturnComesBack : Prop :=
  ∀ (nnn : Addr12) (s : State), s.pushSlot.toNat ≤ 0xFFE →
    ∃ t u, exec (.call nnn) s = .next t ∧ exec .ret t = .next u ∧ u.pc = u16 (s.pc.toNat + 2) ∧ u.sp = s.sp ∧
      (∀ a, a ≠ s.pushSlot.toNat → a ≠ s.pushSlot.toNat + 1 → u.mem.read a = s.mem.read a) ∧
      Frame [] [.memory] s u

/-- From SP = 0xEA0, 175 nested calls complete and the 176th halts with MEMORY_OUT_OF_RANGE(0x1000): the spec's own
inference (R132: "[derived: from this rule and 20_memory.md rule R52]"). -/
def Obligations.StackHolds175Calls : Prop :=
  ∀ (nnn : Addr12) (s : State), s.sp = 0xEA0 → s.halt = none →
    (∀ n, n ≤ 175 → ∃ t, execMany (.call nnn) n s = .next t ∧ t.sp.toNat = 0xEA0 + 2 * n ∧ t.halt = none) ∧
    ∃ t, execMany (.call nnn) 176 s = .next t ∧ t.sp.toNat = 0xFFE ∧ t.halt = some (.memoryOutOfRange 0x1000)

/-- R133, R134. -/
def Obligations.SkipOnImmediate : Prop :=
  ∀ (x : RegIdx) (kk : Byte),
    decode (u16 (0x3000 + x.val * 256 + kk.toNat)) = .ok (.skipEqImm x kk) ∧
    decode (u16 (0x4000 + x.val * 256 + kk.toNat)) = .ok (.skipNeImm x kk) ∧ ∀ s : State,
    (∃ t, exec (.skipEqImm x kk) s = .next t ∧ Frame [] [] s t ∧
      t.pc = if s.reg x = kk then u16 (s.pc.toNat + 4) else u16 (s.pc.toNat + 2)) ∧
    ∃ t, exec (.skipNeImm x kk) s = .next t ∧ Frame [] [] s t ∧
      t.pc = if s.reg x ≠ kk then u16 (s.pc.toNat + 4) else u16 (s.pc.toNat + 2)

/-- R135, R136. -/
def Obligations.SkipOnRegisters : Prop :=
  ∀ x y : RegIdx,
    decode (u16 (0x5000 + x.val * 256 + y.val * 16)) = .ok (.skipEqReg x y) ∧
    decode (u16 (0x9000 + x.val * 256 + y.val * 16)) = .ok (.skipNeReg x y) ∧
    (∀ n, 0 < n → n < 16 →
      (∃ e, decode (u16 (0x5000 + x.val * 256 + y.val * 16 + n)) = .error e) ∧
      ∃ e, decode (u16 (0x9000 + x.val * 256 + y.val * 16 + n)) = .error e) ∧ ∀ s : State,
    (∃ t, exec (.skipEqReg x y) s = .next t ∧ Frame [] [] s t ∧
      t.pc = if s.reg x = s.reg y then u16 (s.pc.toNat + 4) else u16 (s.pc.toNat + 2)) ∧
    ∃ t, exec (.skipNeReg x y) s = .next t ∧ Frame [] [] s t ∧
      t.pc = if s.reg x ≠ s.reg y then u16 (s.pc.toNat + 4) else u16 (s.pc.toNat + 2)

/-- R137. -/
def Obligations.IndexedJumpAddsV0 : Prop :=
  ∀ nnn : Addr12, decode (u16 (0xB000 + nnn.toNat)) = .ok (.indexedJump nnn) ∧
    ∀ s, ∃ t, exec (.indexedJump nnn) s = .next t ∧ t.pc.toNat = nnn.toNat + (s.reg 0).toNat ∧ Frame [] [] s t

/-- A step that does not halt, of an instruction other than return, leaves a PC of at most 0x10FE: the bound of
10_state.md R23, the spec's own inference ("Wrap-around of PC at 0xFFFF cannot occur [derived: from rule R23 and
40_engine.md rule R103]"). -/
def Obligations.ComputedPcStaysBelow10FF : Prop :=
  ∀ s t : State, s.running → fetchInstr s ≠ .ok .ret → step s = .next t → t.halt = none → t.pc.toNat ≤ 0x10FE

/-! ## Register arithmetic and logic (42_alu.md) -/

/-- R160. -/
def Obligations.LoadImmWritesItsByte : Prop :=
  ∀ (x : RegIdx) (kk : Byte), decode (u16 (0x6000 + x.val * 256 + kk.toNat)) = .ok (.loadImm x kk) ∧
    ∀ s, ∃ t, exec (.loadImm x kk) s = .next t ∧ t.reg x = kk ∧ t.pc = u16 (s.pc.toNat + 2) ∧ Frame [x] [] s t

/-- R161. -/
def Obligations.AddImmWrapsWithoutFlag : Prop :=
  ∀ (x : RegIdx) (kk : Byte), decode (u16 (0x7000 + x.val * 256 + kk.toNat)) = .ok (.addImm x kk) ∧
    ∀ s, ∃ t, exec (.addImm x kk) s = .next t ∧ t.reg x = u8 ((s.reg x).toNat + kk.toNat) ∧
      t.pc = u16 (s.pc.toNat + 2) ∧ Frame [x] [] s t

/-- R162, R163, R164, R165. -/
def Obligations.MoveAndLogicWriteVxAlone : Prop :=
  ∀ x y : RegIdx,
    decode (u16 (0x8000 + x.val * 256 + y.val * 16)) = .ok (.move x y) ∧
    decode (u16 (0x8001 + x.val * 256 + y.val * 16)) = .ok (.orReg x y) ∧
    decode (u16 (0x8002 + x.val * 256 + y.val * 16)) = .ok (.andReg x y) ∧
    decode (u16 (0x8003 + x.val * 256 + y.val * 16)) = .ok (.xorReg x y) ∧ ∀ s : State,
    (∃ t, exec (.move x y) s = .next t ∧ t.reg x = s.reg y ∧ t.pc = u16 (s.pc.toNat + 2) ∧ Frame [x] [] s t) ∧
    (∃ t, exec (.orReg x y) s = .next t ∧ t.pc = u16 (s.pc.toNat + 2) ∧ Frame [x] [] s t ∧
      ∀ b, (t.reg x).getLsbD b = ((s.reg x).getLsbD b || (s.reg y).getLsbD b)) ∧
    (∃ t, exec (.andReg x y) s = .next t ∧ t.pc = u16 (s.pc.toNat + 2) ∧ Frame [x] [] s t ∧
      ∀ b, (t.reg x).getLsbD b = ((s.reg x).getLsbD b && (s.reg y).getLsbD b)) ∧
    ∃ t, exec (.xorReg x y) s = .next t ∧ t.pc = u16 (s.pc.toNat + 2) ∧ Frame [x] [] s t ∧
      ∀ b, (t.reg x).getLsbD b = ((s.reg x).getLsbD b ^^ (s.reg y).getLsbD b)

/-- R166: the flag is written last, so it stays when x = 15 (R172). -/
def Obligations.AddRegSumAndCarry : Prop :=
  ∀ x y : RegIdx, decode (u16 (0x8004 + x.val * 256 + y.val * 16)) = .ok (.addReg x y) ∧
    ∀ s, ∃ t, exec (.addReg x y) s = .next t ∧
      t.reg VF = (if (s.reg x).toNat + (s.reg y).toNat > 255 then 1 else 0) ∧
      (x ≠ VF → t.reg x = u8 ((s.reg x).toNat + (s.reg y).toNat)) ∧
      t.pc = u16 (s.pc.toNat + 2) ∧ Frame [x, VF] [] s t

/-- R167, R168: the comparison is strict, and the flag is written last (R172). -/
def Obligations.SubtractionsAndStrictFlag : Prop :=
  ∀ x y : RegIdx,
    decode (u16 (0x8005 + x.val * 256 + y.val * 16)) = .ok (.subReg x y) ∧
    decode (u16 (0x8007 + x.val * 256 + y.val * 16)) = .ok (.subnReg x y) ∧ ∀ s : State,
    (∃ t, exec (.subReg x y) s = .next t ∧
      t.reg VF = (if (s.reg x).toNat > (s.reg y).toNat then 1 else 0) ∧
      (x ≠ VF → (t.reg x).toNat = ((s.reg x).toNat + 256 - (s.reg y).toNat) % 256) ∧
      t.pc = u16 (s.pc.toNat + 2) ∧ Frame [x, VF] [] s t) ∧
    ∃ t, exec (.subnReg x y) s = .next t ∧
      t.reg VF = (if (s.reg y).toNat > (s.reg x).toNat then 1 else 0) ∧
      (x ≠ VF → (t.reg x).toNat = ((s.reg y).toNat + 256 - (s.reg x).toNat) % 256) ∧
      t.pc = u16 (s.pc.toNat + 2) ∧ Frame [x, VF] [] s t

/-- R169, R170, for every value of the ignored y field (R76). -/
def Obligations.ShiftsAndTheBitShiftedOut : Prop :=
  ∀ x y : RegIdx,
    decode (u16 (0x8006 + x.val * 256 + y.val * 16)) = .ok (.shr x y) ∧
    decode (u16 (0x800E + x.val * 256 + y.val * 16)) = .ok (.shl x y) ∧ ∀ s : State,
    (∃ t, exec (.shr x y) s = .next t ∧ (t.reg VF).toNat = (s.reg x).toNat % 2 ∧
      (x ≠ VF → (t.reg x).toNat = (s.reg x).toNat / 2) ∧ t.pc = u16 (s.pc.toNat + 2) ∧ Frame [x, VF] [] s t) ∧
    ∃ t, exec (.shl x y) s = .next t ∧ (t.reg VF).toNat = (s.reg x).toNat / 128 ∧
      (x ≠ VF → (t.reg x).toNat = (s.reg x).toNat * 2 % 256) ∧ t.pc = u16 (s.pc.toNat + 2) ∧ Frame [x, VF] [] s t

/-- R171, for every random byte r that a STEP brings: whatever r is, `V[x] <- r & kk` (the last clause). The clause on
`s.randomByte`, the byte of the state's next draw, and on its being used up is the model's choice (log 1): the spec's
random source is no state (10_state.md R20). -/
def Obligations.RandMasksTheRandomByte : Prop :=
  ∀ (x : RegIdx) (kk : Byte), decode (u16 (0xC000 + x.val * 256 + kk.toNat)) = .ok (.rand x kk) ∧
    (∀ s : State, ∃ t, exec (.rand x kk) s = .next t ∧ t.reg x = s.randomByte &&& kk ∧
      t.pc = u16 (s.pc.toNat + 2) ∧ Frame [x] [.random] s t) ∧
    ∀ (s : State) (r : Byte), s.running → s.fetchable → s.numberAtPc = 0xC000 + x.val * 256 + kk.toNat →
      ∃ t, stepWith r s = .next t ∧ t.reg x = r &&& kk ∧ t.pc = u16 (s.pc.toNat + 2) ∧ Frame [x] [] s t

/-- The model's own choice (log 1), no rule of the spec: a rand takes the oldest byte the host has handed over, and
where there is none a free value, one that no later draw takes again. -/
def Obligations.RandomBytesAreTakenOnce : Prop :=
  ∀ (x : RegIdx) (kk : Byte),
    (∀ (s : State) (r : Byte) (later : List Byte), s.randIn = r :: later →
      ∃ t, exec (.rand x kk) s = .next t ∧ t.reg x = r &&& kk ∧ t.randIn = later ∧ t.draws = s.draws) ∧
    ∀ s : State, s.randIn = [] →
      ∃ t, exec (.rand x kk) s = .next t ∧ t.reg x = Config.freeRandom s.draws &&& kk ∧ t.randIn = [] ∧
        t.draws = s.draws + 1

/-- No instruction writes a general register but its named destinations, and VF only by the six flag writers besides;
every flag writer writes VF. -/
def Obligations.RegistersWrittenOnlyAsNamed : Prop :=
  (∀ (i : Instr) (s t : State) (j : RegIdx), exec i s = .next t → i.namesDest j = false →
    (j = VF → i.writesFlag = false) → t.reg j = s.reg j) ∧
  ∀ (i : Instr) (s t : State), exec i s = .next t → i.writesFlag = true → t.halt = none →
    t.reg VF = 0 ∨ t.reg VF = 1

/-- Every instruction leaves alone each part of the state that the lists of 10_state.md R26 to R31 and 20_memory.md
R51 do not let it write; none writes the key latch. -/
def Obligations.PartsWrittenOnlyAsListed : Prop :=
  ∀ (i : Instr) (s t : State) (p : Part), exec i s = .next t → p ∉ i.writes → p.same s t

/-- The sound timer is never read: two states that differ in ST alone step to states that differ in ST alone. -/
def Obligations.SoundTimerIsNeverRead : Prop :=
  ∀ (s t : State) (b : Byte), step s = .next t → ∃ b', step { s with st := b } = .next { t with st := b' }

/-! ## Index register and memory transfer (43_index_memory.md) -/

/-- R200, R201, R202. -/
def Obligations.IndexRegisterInstructions : Prop :=
  (∀ nnn : Addr12, decode (u16 (0xA000 + nnn.toNat)) = .ok (.setIndex nnn) ∧
    ∀ s, ∃ t, exec (.setIndex nnn) s = .next t ∧ t.i = u16 nnn.toNat ∧ t.pc = u16 (s.pc.toNat + 2) ∧
      Frame [] [.index] s t) ∧
  ∀ x : RegIdx,
    decode (u16 (0xF01E + x.val * 256)) = .ok (.addIndex x) ∧
    decode (u16 (0xF029 + x.val * 256)) = .ok (.spriteAddr x) ∧ ∀ s : State,
    (∃ t, exec (.addIndex x) s = .next t ∧ t.i = u16 (s.i.toNat + (s.reg x).toNat) ∧
      t.pc = u16 (s.pc.toNat + 2) ∧ Frame [] [.index] s t) ∧
    ∃ t, exec (.spriteAddr x) s = .next t ∧ t.i.toNat = (s.reg x).toNat * 5 ∧ t.pc = u16 (s.pc.toNat + 2) ∧
      Frame [] [.index] s t

/-- R203. The digits are stored from `s.base`, the address `execBcd` stores at. -/
def Obligations.BcdStoresThreeDigits : Prop :=
  ∀ x : RegIdx, decode (u16 (0xF033 + x.val * 256)) = .ok (.bcd x) ∧ ∀ s : State, s.base = s.i.toNat ∧
    (s.base + 2 ≤ 0xFFF → ∃ t, exec (.bcd x) s = .next t ∧
      (t.mem.read s.base).toNat = (s.reg x).toNat / 100 ∧
      (t.mem.read (s.base + 1)).toNat = (s.reg x).toNat / 10 % 10 ∧
      (t.mem.read (s.base + 2)).toNat = (s.reg x).toNat % 10 ∧
      (∀ a, a < s.base ∨ s.base + 2 < a → t.mem.read a = s.mem.read a) ∧
      t.pc = u16 (s.pc.toNat + 2) ∧ Frame [] [.memory] s t) ∧
    (0xFFF < s.base + 2 → exec (.bcd x) s = .next { s with
      halt := some (.memoryOutOfRange (if 0x1000 ≤ s.base then s.base else 0x1000)) })

/-- R204. The registers are stored from `s.base`, the address `execDumpRegs` stores at. -/
def Obligations.DumpRegsStoresV0ToVx : Prop :=
  ∀ x : RegIdx, decode (u16 (0xF055 + x.val * 256)) = .ok (.dumpRegs x) ∧ ∀ s : State, s.base = s.i.toNat ∧
    (s.base + x.val ≤ 0xFFF → ∃ t, exec (.dumpRegs x) s = .next t ∧
      (∀ j : RegIdx, j ≤ x → t.mem.read (s.base + j.val) = s.reg j) ∧
      (∀ a, a < s.base ∨ s.base + x.val < a → t.mem.read a = s.mem.read a) ∧
      t.pc = u16 (s.pc.toNat + 2) ∧ Frame [] [.memory] s t) ∧
    (0xFFF < s.base + x.val → exec (.dumpRegs x) s = .next { s with
      halt := some (.memoryOutOfRange (if 0x1000 ≤ s.base then s.base else 0x1000)) })

/-- R205. -/
def Obligations.LoadRegsFillsV0ToVx : Prop :=
  ∀ x : RegIdx, decode (u16 (0xF065 + x.val * 256)) = .ok (.loadRegs x) ∧ ∀ s : State,
    (s.i.toNat + x.val ≤ 0xFFF → ∃ t, exec (.loadRegs x) s = .next t ∧
      (∀ j : RegIdx, j ≤ x → t.reg j = s.mem.read (s.i.toNat + j.val)) ∧
      t.pc = u16 (s.pc.toNat + 2) ∧ Frame ((List.finRange 16).filter fun j => j ≤ x) [] s t) ∧
    (0xFFF < s.i.toNat + x.val → exec (.loadRegs x) s = .next { s with
      halt := some (.memoryOutOfRange (if 0x1000 ≤ s.i.toNat then s.i.toNat else 0x1000)) })

/-- Dumping V0 to Vx and loading them again at the same I gives every register back, whatever happened to them in
between. -/
def Obligations.LoadRegsUndoesDumpRegs : Prop :=
  ∀ (x : RegIdx) (s : State) (v : Vector Byte 16), s.i.toNat + x.val ≤ 0xFFF →
    ∃ t u, exec (.dumpRegs x) s = .next t ∧ exec (.loadRegs x) { t with v := v } = .next u ∧
      (∀ j, j ≤ x → u.reg j = s.reg j) ∧ (∀ j : RegIdx, x < j → u.reg j = v[j]) ∧ u.mem = t.mem

/-! ## Display (44_display.md) -/

/-- R232, for every pixel: a sprite flips exactly the in-grid pixels under its set bits, and collides exactly when one
of them was on; all else in the grid stays, and what lies outside is dropped. -/
def Obligations.SpriteFlipsThePixelsItCovers : Prop :=
  ∀ (d : Display) (col0 row0 : Nat) (bytes : List Byte),
    (∀ col row, (spriteCovers col0 row0 bytes col row →
        (drawSprite d col0 row0 bytes).1.get col row = !d.get col row) ∧
      (¬ spriteCovers col0 row0 bytes col row → (drawSprite d col0 row0 bytes).1.get col row = d.get col row)) ∧
    ((drawSprite d col0 row0 bytes).2 = true ↔
      ∃ col row, spriteCovers col0 row0 bytes col row ∧ d.get col row = true)

/-- R235: two draws with the same place and bytes leave the display as it was, and the second collides exactly when
some target pixel was off before the first. The second half is the spec's own inference (R235: "[derived: from rule
R232]"). -/
def Obligations.DrawingTwiceRestoresTheDisplay : Prop :=
  ∀ (d : Display) (col0 row0 : Nat) (bytes : List Byte),
    (drawSprite (drawSprite d col0 row0 bytes).1 col0 row0 bytes).1 = d ∧
    ((drawSprite (drawSprite d col0 row0 bytes).1 col0 row0 bytes).2 = true ↔
      ∃ col row, spriteCovers col0 row0 bytes col row ∧ d.get col row = false)

/-- R233. -/
def Obligations.ClearScreenTurnsEveryPixelOff : Prop :=
  decode 0x00E0 = .ok .clearScreen ∧ ∀ s, ∃ t, exec .clearScreen s = .next t ∧
    (∀ col row, t.pixel col row = false) ∧ t.pc = u16 (s.pc.toNat + 2) ∧ Frame [] [.display] s t

/-- R234: the n bytes at I are drawn at (Vx, Vy), pixel by pixel, VF is the collision, the coordinates are read before
VF is written; a byte past 0xFFF halts, clipped or not. It holds for every count n, the 16 of the encoding among
them. -/
def Obligations.DrawXorsTheSprite : Prop :=
  ∀ (x y : RegIdx) (n : Nat),
    (n < 16 → decode (u16 (0xD000 + x.val * 256 + y.val * 16 + n)) = .ok (.draw x y n)) ∧ ∀ s : State,
    let covers := spriteCovers (s.reg x).toNat (s.reg y).toNat (s.spriteBytes n)
    (n = 0 ∨ s.i.toNat + n ≤ 0x1000 → ∃ t, exec (.draw x y n) s = .next t ∧
      (∀ col row, (covers col row → t.pixel col row = !s.pixel col row) ∧
        (¬ covers col row → t.pixel col row = s.pixel col row)) ∧
      ((∃ col row, covers col row ∧ s.pixel col row = true) → t.reg VF = 1) ∧
      ((¬ ∃ col row, covers col row ∧ s.pixel col row = true) → t.reg VF = 0) ∧
      t.pc = u16 (s.pc.toNat + 2) ∧ Frame [VF] [.display] s t) ∧
    (0 < n → 0x1000 < s.i.toNat + n → exec (.draw x y n) s = .next { s with
      halt := some (.memoryOutOfRange (if 0x1000 ≤ s.i.toNat then s.i.toNat else 0x1000)) })

/-! ## Keys (45_input.md) -/

/-- R261. -/
def Obligations.PressSetsTheKeyAndEndsTheWait : Prop :=
  ∀ (k : KeyCode) (s : State),
    (s.halt ≠ none → (HostOp.press k).apply s = .next s) ∧
    (s.halt = none → s.wait = none → ∃ t, (HostOp.press k).apply s = .next t ∧ t.key k = true ∧
      (∀ k', k' ≠ k → t.key k' = s.key k') ∧ FrameAndPc [] [.keys] s t) ∧
    (∀ x, s.halt = none → s.wait = some x → ∃ t, (HostOp.press k).apply s = .next t ∧ t.key k = true ∧
      (∀ k', k' ≠ k → t.key k' = s.key k') ∧ (t.reg x).toNat = k.val ∧ t.pc = u16 (s.pc.toNat + 2) ∧
      t.wait = none ∧ Frame [x] [.keys, .wait] s t)

/-- R262. -/
def Obligations.ReleaseOnlyClearsTheKey : Prop :=
  ∀ (k : KeyCode) (s : State),
    (s.halt ≠ none → (HostOp.release k).apply s = .next s) ∧
    (s.halt = none → ∃ t, (HostOp.release k).apply s = .next t ∧ t.key k = false ∧
      (∀ k', k' ≠ k → t.key k' = s.key k') ∧ FrameAndPc [] [.keys] s t)

/-- The key-wait FSM, seen through the STATUS port: which state each operation leaves for which. -/
def Obligations.KeyWaitStatesChangeAsTabled : Prop :=
  (∀ (s : State) (x : RegIdx), s.status = .running → fetchInstr s = .ok (.waitKey x) →
    ∃ t, step s = .next t ∧ t.status = .awaiting x ∧ t.pc = s.pc) ∧
  (∀ s t : State, s.status = .running → (∀ x, fetchInstr s ≠ .ok (.waitKey x)) → step s = .next t →
    t.status = .running ∨ ∃ h, t.status = .halted h) ∧
  (∀ (s : State) (x : RegIdx), s.status = .awaiting x → step s = .next s) ∧
  (∀ (s t : State) (op : HostOp), op.apply s = .next t →
    (op = .reset → t.status = .running) ∧
    (∀ k, op = .press k → (∀ h, s.status ≠ .halted h) → t.status = .running) ∧
    (∀ k, op = .release k → t.status = s.status) ∧ (op = .tick → t.status = s.status) ∧
    (∀ bytes, op = .load bytes → bytes.length ≤ 0xE00 → t.status = s.status) ∧
    (∀ h, s.status = .halted h → op ≠ .reset → t.status = .halted h))

/-- R264, R265. -/
def Obligations.SkipOnKeyReadsTheLatch : Prop :=
  ∀ x : RegIdx,
    decode (u16 (0xE09E + x.val * 256)) = .ok (.skipKeyDown x) ∧
    decode (u16 (0xE0A1 + x.val * 256)) = .ok (.skipKeyUp x) ∧ ∀ s : State,
    (∀ h : (s.reg x).toNat < 16,
      (∃ t, exec (.skipKeyDown x) s = .next t ∧ Frame [] [] s t ∧
        t.pc = if s.key ⟨(s.reg x).toNat, h⟩ = true then u16 (s.pc.toNat + 4) else u16 (s.pc.toNat + 2)) ∧
      ∃ t, exec (.skipKeyUp x) s = .next t ∧ Frame [] [] s t ∧
        t.pc = if s.key ⟨(s.reg x).toNat, h⟩ = false then u16 (s.pc.toNat + 4) else u16 (s.pc.toNat + 2)) ∧
    (15 < (s.reg x).toNat →
      exec (.skipKeyDown x) s = .next { s with halt := some (.keyOutOfRange (s.reg x)) } ∧
      exec (.skipKeyUp x) s = .next { s with halt := some (.keyOutOfRange (s.reg x)) })

/-- R266: the wait is entered with PC unchanged, and the next step does nothing. -/
def Obligations.WaitKeySuspends : Prop :=
  ∀ x : RegIdx, decode (u16 (0xF00A + x.val * 256)) = .ok (.waitKey x) ∧
    ∀ s, ∃ t, exec (.waitKey x) s = .next t ∧ t.wait = some x ∧ FrameAndPc [] [.wait] s t ∧ step t = .next t

/-! ## Timers (46_timers.md) -/

/-- R290. -/
def Obligations.TickCountsBothTimersDown : Prop :=
  ∀ s : State, (s.halt ≠ none → HostOp.tick.apply s = .next s) ∧
    (s.halt = none → ∃ t, HostOp.tick.apply s = .next t ∧
      t.dt.toNat = (if s.dt.toNat > 0 then s.dt.toNat - 1 else 0) ∧
      t.st.toNat = (if s.st.toNat > 0 then s.st.toNat - 1 else 0) ∧ FrameAndPc [] [.dt, .st] s t)

/-- R291, R292, R293. -/
def Obligations.TimerInstructionsMoveTheirByte : Prop :=
  ∀ x : RegIdx,
    decode (u16 (0xF007 + x.val * 256)) = .ok (.loadDelay x) ∧
    decode (u16 (0xF015 + x.val * 256)) = .ok (.setDelay x) ∧
    decode (u16 (0xF018 + x.val * 256)) = .ok (.setSound x) ∧ ∀ s : State,
    (∃ t, exec (.loadDelay x) s = .next t ∧ t.reg x = s.dt ∧ t.pc = u16 (s.pc.toNat + 2) ∧ Frame [x] [] s t) ∧
    (∃ t, exec (.setDelay x) s = .next t ∧ t.dt = s.reg x ∧ t.pc = u16 (s.pc.toNat + 2) ∧ Frame [] [.dt] s t) ∧
    ∃ t, exec (.setSound x) s = .next t ∧ t.st = s.reg x ∧ t.pc = u16 (s.pc.toNat + 2) ∧ Frame [] [.st] s t

/-! ## Reset, load and the invariant (70_reset_and_hazards.md, 10_state.md) -/

/-- R340: RESET, in every state, gives the state of R33; the font bytes are the parameter `font` (log 3). -/
def Obligations.ResetGivesTheInitialState : Prop :=
  font.length = 80 ∧ ∀ s : State, ∃ t, HostOp.reset.apply s = .next t ∧
    (∀ a, a < 0x50 → t.mem.read a = font.getD a 0) ∧ (∀ a, 0x50 ≤ a → a < 0x1000 → t.mem.read a = 0) ∧
    (∀ j, t.reg j = 0) ∧ t.i = 0 ∧ t.sp = 0xEA0 ∧ t.pc = 0x200 ∧ t.dt = 0 ∧ t.st = 0 ∧
    (∀ col row, t.pixel col row = false) ∧ (∀ k, t.key k = false) ∧ t.wait = none ∧ t.halt = none ∧
    t.status = .running

/-- R341. -/
def Obligations.LoadCopiesTheImage : Prop :=
  ∀ (bytes : List Byte) (s : State),
    (s.halt ≠ none → (HostOp.load bytes).apply s = .next s) ∧
    (s.halt = none → 0xE00 < bytes.length →
      (HostOp.load bytes).apply s = .next { s with halt := some (.imageTooLong bytes.length) }) ∧
    (s.halt = none → bytes.length ≤ 0xE00 → ∃ t, (HostOp.load bytes).apply s = .next t ∧
      (∀ j (h : j < bytes.length), t.mem.read (0x200 + j) = bytes[j]) ∧
      (∀ a, a < 0x200 ∨ 0x200 + bytes.length ≤ a → t.mem.read a = s.mem.read a) ∧ FrameAndPc [] [.memory] s t)

/-- The state after reset meets the invariant. That its memory is in canonical form is the model's choice (log 12). -/
def Obligations.ResetMeetsTheInvariant : Prop := Inv State.reset

/-- Every step keeps the invariant, from every state that meets it; `Halt.truthful` says what a recorded halt must say
of its state. The clause on memory's canonical form is the model's choice (log 12). -/
def Obligations.StepKeepsTheInvariant : Prop :=
  ∀ s t : State, Inv s → step s = .next t → Inv t

/-- Every operation of the host keeps the invariant, from every state that meets it; so every state that some list of
operations reaches from RESET meets it, whatever the host's schedule. The clause on memory's canonical form is the
model's choice (log 12). -/
def Obligations.EveryScheduleKeepsTheInvariant : Prop :=
  (∀ (op : HostOp) (s t : State), Inv s → op.apply s = .next t → Inv t) ∧
  ∀ (ops : List HostOp) (t : State), runOps ops State.reset = .next t → Inv t
end

