-- ==== Sys2Proof/Laws/Word.lean ====
section
/-! SUPPORT. The numbers behind words, nibbles and bytes. -/

namespace Sys2Proof

@[simp] theorem u8_toNat (v : Nat) : (u8 v).toNat = v % 256 := by simp [u8]

@[simp] theorem u16_toNat (v : Nat) : (u16 v).toNat = v % 65536 := by simp [u16]

theorem concatBytes_toNat (a b : Byte) : (concatBytes a b).toNat = a.toNat * 256 + b.toNat := by
  have ha := a.isLt
  have hb := b.isLt
  have h : (a.toNat <<< 8) % 65536 = a.toNat <<< 8 := by rw [Nat.shiftLeft_eq]; omega
  simp only [concatBytes, BitVec.toNat_or, BitVec.toNat_shiftLeft, BitVec.toNat_setWidth]
  rw [Nat.mod_eq_of_lt (by omega : a.toNat < 2 ^ 16), Nat.mod_eq_of_lt (by omega : b.toNat < 2 ^ 16), h,
    ← Nat.shiftLeft_add_eq_or_of_lt (by omega : b.toNat < 2 ^ 8), Nat.shiftLeft_eq]

theorem highByte_toNat (v : Word) : (highByte v).toNat = v.toNat / 256 := by
  have := v.isLt
  simp only [highByte, BitVec.extractLsb'_toNat, Nat.shiftRight_eq_div_pow]
  omega

theorem lowByte_toNat (v : Word) : (lowByte v).toNat = v.toNat % 256 := by
  simp [lowByte, BitVec.extractLsb'_toNat]

/-- The two bytes of a word, put together again, are the word. -/
@[simp] theorem concatBytes_high_low (v : Word) : concatBytes (highByte v) (lowByte v) = v := by
  apply BitVec.eq_of_toNat_eq
  rw [concatBytes_toNat, highByte_toNat, lowByte_toNat]
  omega

theorem nibble1_toNat (w : Word) : (nibble1 w).toNat = w.toNat / 4096 := by
  have := w.isLt
  simp only [nibble1, BitVec.extractLsb'_toNat, Nat.shiftRight_eq_div_pow]
  omega

theorem nibble4_toNat (w : Word) : (nibble4 w).toNat = w.toNat % 16 := by
  simp [nibble4, BitVec.extractLsb'_toNat]

theorem fieldX_val (w : Word) : (fieldX w).val = w.toNat / 256 % 16 := by
  simp [fieldX, nibble2, Nat.shiftRight_eq_div_pow]

theorem fieldY_val (w : Word) : (fieldY w).val = w.toNat / 16 % 16 := by
  simp [fieldY, nibble3, Nat.shiftRight_eq_div_pow]

theorem fieldN_eq (w : Word) : fieldN w = w.toNat % 16 := nibble4_toNat w

theorem fieldKK_toNat (w : Word) : (fieldKK w).toNat = w.toNat % 256 := by
  simp [fieldKK, BitVec.extractLsb'_toNat]

theorem fieldNNN_toNat (w : Word) : (fieldNNN w).toNat = w.toNat % 4096 := by
  simp [fieldNNN, BitVec.extractLsb'_toNat]

end Sys2Proof
end

