-- ==== Sys2Proof/Laws/Encoding.lean ====
section
/-! SUPPORT. The masks of the opcode table and the formats of the encoder, as numbers. -/

namespace Sys2Proof

theorem and_F000_toNat (w : Word) : (w &&& 0xF000#16).toNat = w.toNat / 4096 * 4096 := by
  have h : w &&& 0xF000#16 = (w >>> 12) <<< 12 := by
    ext i hi
    simp only [BitVec.getElem_and, BitVec.getElem_shiftLeft]
    interval_cases i <;> simp [BitVec.getElem_eq_testBit_toNat, Nat.testBit, ← Nat.shiftRight_add]
  have := w.isLt
  rw [h]
  simp only [BitVec.toNat_shiftLeft, BitVec.toNat_ushiftRight, Nat.shiftLeft_eq, Nat.shiftRight_eq_div_pow]
  omega

theorem and_low_toNat (w : Word) (k : Nat) (hk : k ≤ 16) :
    (w &&& BitVec.ofNat 16 (2 ^ k - 1)).toNat = w.toNat % 2 ^ k := by
  have : 2 ^ k ≤ 2 ^ 16 := Nat.pow_le_pow_right (by omega) hk
  rw [BitVec.toNat_and, BitVec.toNat_ofNat, Nat.mod_eq_of_lt (by have := Nat.two_pow_pos k; omega),
    Nat.and_two_pow_sub_one_eq_mod]

/-- The mask of the high nibble and of the `k` low bits. -/
theorem and_high_low_toNat (w : Word) (k : Nat) (hk : k ≤ 12) :
    (w &&& (0xF000#16 ||| BitVec.ofNat 16 (2 ^ k - 1))).toNat = w.toNat / 4096 * 4096 + w.toNat % 2 ^ k := by
  have hp : 2 ^ k ≤ 2 ^ 12 := Nat.pow_le_pow_right (by omega) hk
  have hm : w.toNat % 2 ^ k < 2 ^ k := Nat.mod_lt _ (Nat.two_pow_pos k)
  have hd : w.toNat / 4096 * 4096 = (w.toNat / 4096) <<< 12 := by rw [Nat.shiftLeft_eq]
  rw [BitVec.and_or_distrib_left, BitVec.toNat_or, and_F000_toNat, and_low_toNat w k (by omega), hd,
    ← Nat.shiftLeft_add_eq_or_of_lt (by omega : w.toNat % 2 ^ k < 2 ^ 12)]

theorem and_0xF000 (w : Word) : (w &&& 0xF000).toNat = w.toNat / 4096 * 4096 := and_F000_toNat w

theorem and_0xF00F (w : Word) : (w &&& 0xF00F).toNat = w.toNat / 4096 * 4096 + w.toNat % 16 :=
  and_high_low_toNat w 4 (by omega)

theorem and_0xF0FF (w : Word) : (w &&& 0xF0FF).toNat = w.toNat / 4096 * 4096 + w.toNat % 256 :=
  and_high_low_toNat w 8 (by omega)

theorem encNNN_toNat (op : Nat) (nnn : Addr12) (h : op < 16) : (encNNN op nnn).toNat = op * 4096 + nnn.toNat := by
  have := nnn.isLt
  simp only [encNNN, u16_toNat]
  omega

theorem encXKK_toNat (op : Nat) (x : RegIdx) (kk : Nat) (h : op < 16) (hk : kk < 256) :
    (encXKK op x kk).toNat = op * 4096 + x.val * 256 + kk := by
  have := x.isLt
  simp only [encXKK, u16_toNat]
  omega

theorem encXYN_toNat (op : Nat) (x y : RegIdx) (n : Nat) (h : op < 16) (hn : n < 16) :
    (encXYN op x y n).toNat = op * 4096 + x.val * 256 + y.val * 16 + n := by
  have := x.isLt
  have := y.isLt
  simp only [encXYN, wordOfNibbles, u16_toNat]
  omega

/-- An NNN word matches its row. -/
theorem matches_NNN (name : String) (op : Nat) (nnn : Addr12) (h : op < 16) :
    OpcodeRow.matches ⟨name, 0xF000, u16 (op * 4096)⟩ (encNNN op nnn) = true := by
  have := nnn.isLt
  simp only [OpcodeRow.matches, beq_iff_eq]
  apply BitVec.eq_of_toNat_eq
  rw [and_0xF000, encNNN_toNat op nnn h, u16_toNat]
  omega

/-- An XKK word matches its row. -/
theorem matches_XKK (name : String) (op : Nat) (x : RegIdx) (kk : Byte) (h : op < 16) :
    OpcodeRow.matches ⟨name, 0xF000, u16 (op * 4096)⟩ (encXKK op x kk.toNat) = true := by
  have := x.isLt
  have := kk.isLt
  simp only [OpcodeRow.matches, beq_iff_eq]
  apply BitVec.eq_of_toNat_eq
  rw [and_0xF000, encXKK_toNat op x kk.toNat h (by omega), u16_toNat]
  omega

/-- An XFN word matches its row. -/
theorem matches_XFN (name : String) (op : Nat) (x : RegIdx) (f : Nat) (h : op < 16) (hf : f < 256) :
    OpcodeRow.matches ⟨name, 0xF0FF, u16 (op * 4096 + f)⟩ (encXKK op x f) = true := by
  have := x.isLt
  simp only [OpcodeRow.matches, beq_iff_eq]
  apply BitVec.eq_of_toNat_eq
  rw [and_0xF0FF, encXKK_toNat op x f h hf, u16_toNat]
  omega

/-- An XY word matches its row. -/
theorem matches_XY (name : String) (op : Nat) (x y : RegIdx) (f : Nat) (h : op < 16) (hf : f < 16) :
    OpcodeRow.matches ⟨name, 0xF00F, u16 (op * 4096 + f)⟩ (encXYN op x y f) = true := by
  have := x.isLt
  have := y.isLt
  simp only [OpcodeRow.matches, beq_iff_eq]
  apply BitVec.eq_of_toNat_eq
  rw [and_0xF00F, encXYN_toNat op x y f h hf, u16_toNat]
  omega

/-- An XYN word matches its row. -/
theorem matches_XYN (name : String) (op : Nat) (x y : RegIdx) (n : Nat) (h : op < 16) (hn : n < 16) :
    OpcodeRow.matches ⟨name, 0xF000, u16 (op * 4096)⟩ (encXYN op x y n) = true := by
  have := x.isLt
  have := y.isLt
  simp only [OpcodeRow.matches, beq_iff_eq]
  apply BitVec.eq_of_toNat_eq
  rw [and_0xF000, encXYN_toNat op x y n h hn, u16_toNat]
  omega

end Sys2Proof
end

