-- ==== Sys2Proof/Laws/Memory.lean ====
section
/-! SUPPORT. The laws of memory: what a read gives after a write, and that every operation keeps the canonical
form. -/

namespace Sys2Proof.Machine

theorem Memory.read_cons (c : Host.Cell) (m : Memory) (a : Nat) :
    Memory.read (c :: m) a = if c.1 = a then c.2 else Memory.read m a := rfl

theorem Memory.read_erase_same (m : Memory) (a : Nat) : (Memory.erase m a).read a = resetByte a := by
  induction m with
  | nil => rfl
  | cons c m ih =>
    by_cases h : c.1 = a
    · simpa [Memory.erase, h] using ih
    · simpa [Memory.erase, List.filter_cons, h, Memory.read_cons] using ih

theorem Memory.read_erase_other (m : Memory) (h : a' ≠ a) : (Memory.erase m a).read a' = Memory.read m a' := by
  induction m with
  | nil => rfl
  | cons c m ih =>
    by_cases hc : c.1 = a
    · have : c.1 ≠ a' := fun e => h (e.symm.trans hc)
      simpa [Memory.erase, List.filter_cons, hc, Memory.read_cons, h.symm] using ih
    · by_cases hc' : c.1 = a'
      · simp [Memory.erase, Memory.read_cons, hc', h]
      · simpa [Memory.erase, List.filter_cons, hc, Memory.read_cons, hc'] using ih

theorem Memory.read_place_same (m : Memory) (c : Host.Cell) (h : ∀ d ∈ m, d.1 ≠ c.1) :
    (Memory.place m c).read c.1 = c.2 := by
  induction m with
  | nil => simp [Memory.place, Memory.read]
  | cons d m ih =>
    by_cases hd : c.1 < d.1
    · simp [Memory.place, hd, Memory.read_cons]
    · have hne : d.1 ≠ c.1 := h d (by simp)
      have := ih (fun e he => h e (by simp [he]))
      simpa [Memory.place, hd, Memory.read_cons, hne] using this

theorem Memory.read_place_other (m : Memory) (c : Host.Cell) (h : a ≠ c.1) :
    (Memory.place m c).read a = Memory.read m a := by
  induction m with
  | nil => simp [Memory.place, Memory.read_cons, h.symm, Memory.read]
  | cons d m ih =>
    by_cases hd : c.1 < d.1
    · simp [Memory.place, hd, Memory.read_cons, h.symm]
    · simp [Memory.place, hd, Memory.read_cons, ih]

theorem Memory.erase_ne (m : Memory) (a : Nat) : ∀ d ∈ Memory.erase m a, d.1 ≠ a := by
  intro d hd
  simpa using (List.mem_filter.mp hd).2

/-- Read after write: the byte stored is read at its address, and every other address reads as before
(20_memory.md R57). It needs no canonical form. -/
theorem Memory.read_write (m : Memory) (a a' : Nat) (b : Byte) :
    (Memory.write m a b).read a' = if a' = a then b else Memory.read m a' := by
  unfold Memory.write
  by_cases hb : b = resetByte a <;> by_cases ha : a' = a
  · subst ha; simp [hb, Memory.read_erase_same]
  · simp [hb, ha, Memory.read_erase_other m ha]
  · subst ha
    simpa [hb] using Memory.read_place_same (Memory.erase m a') (a', b) (Memory.erase_ne m a')
  · simp [hb, ha, Memory.read_place_other _ (a, b) ha, Memory.read_erase_other m ha]

/-! ### The canonical form -/

theorem Memory.mem_place {m : Memory} {c d : Host.Cell} (h : d ∈ Memory.place m c) : d = c ∨ d ∈ m := by
  induction m with
  | nil => simpa [Memory.place] using h
  | cons e m ih =>
    by_cases he : c.1 < e.1
    · simpa [Memory.place, he] using h
    · simp only [Memory.place, he, if_false, List.mem_cons] at h
      rcases h with rfl | h
      · simp
      · rcases ih h with rfl | h <;> simp [*]

theorem Memory.place_pairwise (m : Memory) (c : Host.Cell) (hm : m.Pairwise (fun c d => c.1 < d.1))
    (h : ∀ d ∈ m, d.1 ≠ c.1) : (Memory.place m c).Pairwise (fun c d => c.1 < d.1) := by
  induction m with
  | nil => simp [Memory.place]
  | cons d m ih =>
    have hd := List.pairwise_cons.mp hm
    by_cases hlt : c.1 < d.1
    · simp only [Memory.place, hlt, if_true, List.pairwise_cons]
      exact ⟨fun e he => by
        rcases List.mem_cons.mp he with rfl | he
        · exact hlt
        · exact hlt.trans (hd.1 e he), hd⟩
    · simp only [Memory.place, hlt, if_false, List.pairwise_cons]
      refine ⟨fun e he => ?_, ih hd.2 (fun e he => h e (by simp [he]))⟩
      rcases Memory.mem_place he with rfl | he
      · have := h d (by simp)
        omega
      · exact hd.1 e he

theorem Memory.erase_wf {m : Memory} (h : m.wf) (a : Nat) : (Memory.erase m a).wf :=
  ⟨h.1.filter _, fun c hc => h.2 c (List.mem_filter.mp hc).1⟩

/-- A write inside memory keeps the canonical form. -/
theorem Memory.write_wf {m : Memory} (h : m.wf) (ha : a < memSize) (b : Byte) : (Memory.write m a b).wf := by
  unfold Memory.write
  by_cases hb : b = resetByte a
  · simpa [hb] using Memory.erase_wf h a
  · simp only [hb, if_false]
    refine ⟨Memory.place_pairwise _ _ (Memory.erase_wf h a).1 (Memory.erase_ne m a), fun c hc => ?_⟩
    rcases Memory.mem_place hc with rfl | hc
    · exact ⟨ha, hb⟩
    · exact (Memory.erase_wf h a).2 c hc

theorem reset_mem_wf : State.reset.mem.wf := by decide

end Sys2Proof.Machine
end

