-- ==== Sys2Proof/Laws/State.lean ====
section
/-! SUPPORT. One lemma per field of State and per update of it, so that no proof unfolds a record update, and the
register and key reads after each update. -/

namespace Sys2Proof.Machine

/-! ### setPc -/

@[simp] theorem State.setPc_mem (s : State) (a : Word) : (s.setPc a).mem = s.mem := rfl
@[simp] theorem State.setPc_v (s : State) (a : Word) : (s.setPc a).v = s.v := rfl
@[simp] theorem State.setPc_i (s : State) (a : Word) : (s.setPc a).i = s.i := rfl
@[simp] theorem State.setPc_sp (s : State) (a : Word) : (s.setPc a).sp = s.sp := rfl
@[simp] theorem State.setPc_dt (s : State) (a : Word) : (s.setPc a).dt = s.dt := rfl
@[simp] theorem State.setPc_st (s : State) (a : Word) : (s.setPc a).st = s.st := rfl
@[simp] theorem State.setPc_pc (s : State) (a : Word) : (s.setPc a).pc = a := rfl
@[simp] theorem State.setPc_display (s : State) (a : Word) : (s.setPc a).display = s.display := rfl
@[simp] theorem State.setPc_keys (s : State) (a : Word) : (s.setPc a).keys = s.keys := rfl
@[simp] theorem State.setPc_wait (s : State) (a : Word) : (s.setPc a).wait = s.wait := rfl
@[simp] theorem State.setPc_halt (s : State) (a : Word) : (s.setPc a).halt = s.halt := rfl
@[simp] theorem State.setPc_randIn (s : State) (a : Word) : (s.setPc a).randIn = s.randIn := rfl
@[simp] theorem State.setPc_draws (s : State) (a : Word) : (s.setPc a).draws = s.draws := rfl
@[simp] theorem State.setPc_reg (s : State) (a : Word) (j : RegIdx) : (s.setPc a).reg j = s.reg j := rfl
@[simp] theorem State.setPc_key (s : State) (a : Word) (j : KeyCode) : (s.setPc a).key j = s.key j := rfl

/-! ### setIndex -/

@[simp] theorem State.setIndex_mem (s : State) (a : Word) : (s.setIndex a).mem = s.mem := rfl
@[simp] theorem State.setIndex_v (s : State) (a : Word) : (s.setIndex a).v = s.v := rfl
@[simp] theorem State.setIndex_i (s : State) (a : Word) : (s.setIndex a).i = a := rfl
@[simp] theorem State.setIndex_sp (s : State) (a : Word) : (s.setIndex a).sp = s.sp := rfl
@[simp] theorem State.setIndex_dt (s : State) (a : Word) : (s.setIndex a).dt = s.dt := rfl
@[simp] theorem State.setIndex_st (s : State) (a : Word) : (s.setIndex a).st = s.st := rfl
@[simp] theorem State.setIndex_pc (s : State) (a : Word) : (s.setIndex a).pc = s.pc := rfl
@[simp] theorem State.setIndex_display (s : State) (a : Word) : (s.setIndex a).display = s.display := rfl
@[simp] theorem State.setIndex_keys (s : State) (a : Word) : (s.setIndex a).keys = s.keys := rfl
@[simp] theorem State.setIndex_wait (s : State) (a : Word) : (s.setIndex a).wait = s.wait := rfl
@[simp] theorem State.setIndex_halt (s : State) (a : Word) : (s.setIndex a).halt = s.halt := rfl
@[simp] theorem State.setIndex_randIn (s : State) (a : Word) : (s.setIndex a).randIn = s.randIn := rfl
@[simp] theorem State.setIndex_draws (s : State) (a : Word) : (s.setIndex a).draws = s.draws := rfl
@[simp] theorem State.setIndex_reg (s : State) (a : Word) (j : RegIdx) : (s.setIndex a).reg j = s.reg j := rfl
@[simp] theorem State.setIndex_key (s : State) (a : Word) (j : KeyCode) : (s.setIndex a).key j = s.key j := rfl

/-! ### setSp -/

@[simp] theorem State.setSp_mem (s : State) (a : Word) : (s.setSp a).mem = s.mem := rfl
@[simp] theorem State.setSp_v (s : State) (a : Word) : (s.setSp a).v = s.v := rfl
@[simp] theorem State.setSp_i (s : State) (a : Word) : (s.setSp a).i = s.i := rfl
@[simp] theorem State.setSp_sp (s : State) (a : Word) : (s.setSp a).sp = a := rfl
@[simp] theorem State.setSp_dt (s : State) (a : Word) : (s.setSp a).dt = s.dt := rfl
@[simp] theorem State.setSp_st (s : State) (a : Word) : (s.setSp a).st = s.st := rfl
@[simp] theorem State.setSp_pc (s : State) (a : Word) : (s.setSp a).pc = s.pc := rfl
@[simp] theorem State.setSp_display (s : State) (a : Word) : (s.setSp a).display = s.display := rfl
@[simp] theorem State.setSp_keys (s : State) (a : Word) : (s.setSp a).keys = s.keys := rfl
@[simp] theorem State.setSp_wait (s : State) (a : Word) : (s.setSp a).wait = s.wait := rfl
@[simp] theorem State.setSp_halt (s : State) (a : Word) : (s.setSp a).halt = s.halt := rfl
@[simp] theorem State.setSp_randIn (s : State) (a : Word) : (s.setSp a).randIn = s.randIn := rfl
@[simp] theorem State.setSp_draws (s : State) (a : Word) : (s.setSp a).draws = s.draws := rfl
@[simp] theorem State.setSp_reg (s : State) (a : Word) (j : RegIdx) : (s.setSp a).reg j = s.reg j := rfl
@[simp] theorem State.setSp_key (s : State) (a : Word) (j : KeyCode) : (s.setSp a).key j = s.key j := rfl

/-! ### setDt -/

@[simp] theorem State.setDt_mem (s : State) (b : Byte) : (s.setDt b).mem = s.mem := rfl
@[simp] theorem State.setDt_v (s : State) (b : Byte) : (s.setDt b).v = s.v := rfl
@[simp] theorem State.setDt_i (s : State) (b : Byte) : (s.setDt b).i = s.i := rfl
@[simp] theorem State.setDt_sp (s : State) (b : Byte) : (s.setDt b).sp = s.sp := rfl
@[simp] theorem State.setDt_dt (s : State) (b : Byte) : (s.setDt b).dt = b := rfl
@[simp] theorem State.setDt_st (s : State) (b : Byte) : (s.setDt b).st = s.st := rfl
@[simp] theorem State.setDt_pc (s : State) (b : Byte) : (s.setDt b).pc = s.pc := rfl
@[simp] theorem State.setDt_display (s : State) (b : Byte) : (s.setDt b).display = s.display := rfl
@[simp] theorem State.setDt_keys (s : State) (b : Byte) : (s.setDt b).keys = s.keys := rfl
@[simp] theorem State.setDt_wait (s : State) (b : Byte) : (s.setDt b).wait = s.wait := rfl
@[simp] theorem State.setDt_halt (s : State) (b : Byte) : (s.setDt b).halt = s.halt := rfl
@[simp] theorem State.setDt_randIn (s : State) (b : Byte) : (s.setDt b).randIn = s.randIn := rfl
@[simp] theorem State.setDt_draws (s : State) (b : Byte) : (s.setDt b).draws = s.draws := rfl
@[simp] theorem State.setDt_reg (s : State) (b : Byte) (j : RegIdx) : (s.setDt b).reg j = s.reg j := rfl
@[simp] theorem State.setDt_key (s : State) (b : Byte) (j : KeyCode) : (s.setDt b).key j = s.key j := rfl

/-! ### setSt -/

@[simp] theorem State.setSt_mem (s : State) (b : Byte) : (s.setSt b).mem = s.mem := rfl
@[simp] theorem State.setSt_v (s : State) (b : Byte) : (s.setSt b).v = s.v := rfl
@[simp] theorem State.setSt_i (s : State) (b : Byte) : (s.setSt b).i = s.i := rfl
@[simp] theorem State.setSt_sp (s : State) (b : Byte) : (s.setSt b).sp = s.sp := rfl
@[simp] theorem State.setSt_dt (s : State) (b : Byte) : (s.setSt b).dt = s.dt := rfl
@[simp] theorem State.setSt_st (s : State) (b : Byte) : (s.setSt b).st = b := rfl
@[simp] theorem State.setSt_pc (s : State) (b : Byte) : (s.setSt b).pc = s.pc := rfl
@[simp] theorem State.setSt_display (s : State) (b : Byte) : (s.setSt b).display = s.display := rfl
@[simp] theorem State.setSt_keys (s : State) (b : Byte) : (s.setSt b).keys = s.keys := rfl
@[simp] theorem State.setSt_wait (s : State) (b : Byte) : (s.setSt b).wait = s.wait := rfl
@[simp] theorem State.setSt_halt (s : State) (b : Byte) : (s.setSt b).halt = s.halt := rfl
@[simp] theorem State.setSt_randIn (s : State) (b : Byte) : (s.setSt b).randIn = s.randIn := rfl
@[simp] theorem State.setSt_draws (s : State) (b : Byte) : (s.setSt b).draws = s.draws := rfl
@[simp] theorem State.setSt_reg (s : State) (b : Byte) (j : RegIdx) : (s.setSt b).reg j = s.reg j := rfl
@[simp] theorem State.setSt_key (s : State) (b : Byte) (j : KeyCode) : (s.setSt b).key j = s.key j := rfl

/-! ### setRegs -/

@[simp] theorem State.setRegs_mem (s : State) (w : Vector Byte 16) : (s.setRegs w).mem = s.mem := rfl
@[simp] theorem State.setRegs_v (s : State) (w : Vector Byte 16) : (s.setRegs w).v = w := rfl
@[simp] theorem State.setRegs_i (s : State) (w : Vector Byte 16) : (s.setRegs w).i = s.i := rfl
@[simp] theorem State.setRegs_sp (s : State) (w : Vector Byte 16) : (s.setRegs w).sp = s.sp := rfl
@[simp] theorem State.setRegs_dt (s : State) (w : Vector Byte 16) : (s.setRegs w).dt = s.dt := rfl
@[simp] theorem State.setRegs_st (s : State) (w : Vector Byte 16) : (s.setRegs w).st = s.st := rfl
@[simp] theorem State.setRegs_pc (s : State) (w : Vector Byte 16) : (s.setRegs w).pc = s.pc := rfl
@[simp] theorem State.setRegs_display (s : State) (w : Vector Byte 16) : (s.setRegs w).display = s.display := rfl
@[simp] theorem State.setRegs_keys (s : State) (w : Vector Byte 16) : (s.setRegs w).keys = s.keys := rfl
@[simp] theorem State.setRegs_wait (s : State) (w : Vector Byte 16) : (s.setRegs w).wait = s.wait := rfl
@[simp] theorem State.setRegs_halt (s : State) (w : Vector Byte 16) : (s.setRegs w).halt = s.halt := rfl
@[simp] theorem State.setRegs_randIn (s : State) (w : Vector Byte 16) : (s.setRegs w).randIn = s.randIn := rfl
@[simp] theorem State.setRegs_draws (s : State) (w : Vector Byte 16) : (s.setRegs w).draws = s.draws := rfl
@[simp] theorem State.setRegs_key (s : State) (w : Vector Byte 16) (j : KeyCode) : (s.setRegs w).key j = s.key j := rfl

/-! ### setMem -/

@[simp] theorem State.setMem_mem (s : State) (m : Memory) : (s.setMem m).mem = m := rfl
@[simp] theorem State.setMem_v (s : State) (m : Memory) : (s.setMem m).v = s.v := rfl
@[simp] theorem State.setMem_i (s : State) (m : Memory) : (s.setMem m).i = s.i := rfl
@[simp] theorem State.setMem_sp (s : State) (m : Memory) : (s.setMem m).sp = s.sp := rfl
@[simp] theorem State.setMem_dt (s : State) (m : Memory) : (s.setMem m).dt = s.dt := rfl
@[simp] theorem State.setMem_st (s : State) (m : Memory) : (s.setMem m).st = s.st := rfl
@[simp] theorem State.setMem_pc (s : State) (m : Memory) : (s.setMem m).pc = s.pc := rfl
@[simp] theorem State.setMem_display (s : State) (m : Memory) : (s.setMem m).display = s.display := rfl
@[simp] theorem State.setMem_keys (s : State) (m : Memory) : (s.setMem m).keys = s.keys := rfl
@[simp] theorem State.setMem_wait (s : State) (m : Memory) : (s.setMem m).wait = s.wait := rfl
@[simp] theorem State.setMem_halt (s : State) (m : Memory) : (s.setMem m).halt = s.halt := rfl
@[simp] theorem State.setMem_randIn (s : State) (m : Memory) : (s.setMem m).randIn = s.randIn := rfl
@[simp] theorem State.setMem_draws (s : State) (m : Memory) : (s.setMem m).draws = s.draws := rfl
@[simp] theorem State.setMem_reg (s : State) (m : Memory) (j : RegIdx) : (s.setMem m).reg j = s.reg j := rfl
@[simp] theorem State.setMem_key (s : State) (m : Memory) (j : KeyCode) : (s.setMem m).key j = s.key j := rfl

/-! ### setDisplay -/

@[simp] theorem State.setDisplay_mem (s : State) (d : Display) : (s.setDisplay d).mem = s.mem := rfl
@[simp] theorem State.setDisplay_v (s : State) (d : Display) : (s.setDisplay d).v = s.v := rfl
@[simp] theorem State.setDisplay_i (s : State) (d : Display) : (s.setDisplay d).i = s.i := rfl
@[simp] theorem State.setDisplay_sp (s : State) (d : Display) : (s.setDisplay d).sp = s.sp := rfl
@[simp] theorem State.setDisplay_dt (s : State) (d : Display) : (s.setDisplay d).dt = s.dt := rfl
@[simp] theorem State.setDisplay_st (s : State) (d : Display) : (s.setDisplay d).st = s.st := rfl
@[simp] theorem State.setDisplay_pc (s : State) (d : Display) : (s.setDisplay d).pc = s.pc := rfl
@[simp] theorem State.setDisplay_display (s : State) (d : Display) : (s.setDisplay d).display = d := rfl
@[simp] theorem State.setDisplay_keys (s : State) (d : Display) : (s.setDisplay d).keys = s.keys := rfl
@[simp] theorem State.setDisplay_wait (s : State) (d : Display) : (s.setDisplay d).wait = s.wait := rfl
@[simp] theorem State.setDisplay_halt (s : State) (d : Display) : (s.setDisplay d).halt = s.halt := rfl
@[simp] theorem State.setDisplay_randIn (s : State) (d : Display) : (s.setDisplay d).randIn = s.randIn := rfl
@[simp] theorem State.setDisplay_draws (s : State) (d : Display) : (s.setDisplay d).draws = s.draws := rfl
@[simp] theorem State.setDisplay_reg (s : State) (d : Display) (j : RegIdx) : (s.setDisplay d).reg j = s.reg j := rfl
@[simp] theorem State.setDisplay_key (s : State) (d : Display) (j : KeyCode) : (s.setDisplay d).key j = s.key j := rfl

/-! ### setWait -/

@[simp] theorem State.setWait_mem (s : State) (w : Option RegIdx) : (s.setWait w).mem = s.mem := rfl
@[simp] theorem State.setWait_v (s : State) (w : Option RegIdx) : (s.setWait w).v = s.v := rfl
@[simp] theorem State.setWait_i (s : State) (w : Option RegIdx) : (s.setWait w).i = s.i := rfl
@[simp] theorem State.setWait_sp (s : State) (w : Option RegIdx) : (s.setWait w).sp = s.sp := rfl
@[simp] theorem State.setWait_dt (s : State) (w : Option RegIdx) : (s.setWait w).dt = s.dt := rfl
@[simp] theorem State.setWait_st (s : State) (w : Option RegIdx) : (s.setWait w).st = s.st := rfl
@[simp] theorem State.setWait_pc (s : State) (w : Option RegIdx) : (s.setWait w).pc = s.pc := rfl
@[simp] theorem State.setWait_display (s : State) (w : Option RegIdx) : (s.setWait w).display = s.display := rfl
@[simp] theorem State.setWait_keys (s : State) (w : Option RegIdx) : (s.setWait w).keys = s.keys := rfl
@[simp] theorem State.setWait_wait (s : State) (w : Option RegIdx) : (s.setWait w).wait = w := rfl
@[simp] theorem State.setWait_halt (s : State) (w : Option RegIdx) : (s.setWait w).halt = s.halt := rfl
@[simp] theorem State.setWait_randIn (s : State) (w : Option RegIdx) : (s.setWait w).randIn = s.randIn := rfl
@[simp] theorem State.setWait_draws (s : State) (w : Option RegIdx) : (s.setWait w).draws = s.draws := rfl
@[simp] theorem State.setWait_reg (s : State) (w : Option RegIdx) (j : RegIdx) : (s.setWait w).reg j = s.reg j := rfl
@[simp] theorem State.setWait_key (s : State) (w : Option RegIdx) (j : KeyCode) : (s.setWait w).key j = s.key j := rfl

/-! ### raiseHalt -/

@[simp] theorem State.raiseHalt_mem (s : State) (h : Halt) : (s.raiseHalt h).mem = s.mem := rfl
@[simp] theorem State.raiseHalt_v (s : State) (h : Halt) : (s.raiseHalt h).v = s.v := rfl
@[simp] theorem State.raiseHalt_i (s : State) (h : Halt) : (s.raiseHalt h).i = s.i := rfl
@[simp] theorem State.raiseHalt_sp (s : State) (h : Halt) : (s.raiseHalt h).sp = s.sp := rfl
@[simp] theorem State.raiseHalt_dt (s : State) (h : Halt) : (s.raiseHalt h).dt = s.dt := rfl
@[simp] theorem State.raiseHalt_st (s : State) (h : Halt) : (s.raiseHalt h).st = s.st := rfl
@[simp] theorem State.raiseHalt_pc (s : State) (h : Halt) : (s.raiseHalt h).pc = s.pc := rfl
@[simp] theorem State.raiseHalt_display (s : State) (h : Halt) : (s.raiseHalt h).display = s.display := rfl
@[simp] theorem State.raiseHalt_keys (s : State) (h : Halt) : (s.raiseHalt h).keys = s.keys := rfl
@[simp] theorem State.raiseHalt_wait (s : State) (h : Halt) : (s.raiseHalt h).wait = s.wait := rfl
@[simp] theorem State.raiseHalt_halt (s : State) (h : Halt) : (s.raiseHalt h).halt = some h := rfl
@[simp] theorem State.raiseHalt_randIn (s : State) (h : Halt) : (s.raiseHalt h).randIn = s.randIn := rfl
@[simp] theorem State.raiseHalt_draws (s : State) (h : Halt) : (s.raiseHalt h).draws = s.draws := rfl
@[simp] theorem State.raiseHalt_reg (s : State) (h : Halt) (j : RegIdx) : (s.raiseHalt h).reg j = s.reg j := rfl
@[simp] theorem State.raiseHalt_key (s : State) (h : Halt) (j : KeyCode) : (s.raiseHalt h).key j = s.key j := rfl

/-! ### setRandom -/

@[simp] theorem State.setRandom_mem (s : State) (l : List Byte) (n : Nat) : (s.setRandom l n).mem = s.mem := rfl
@[simp] theorem State.setRandom_v (s : State) (l : List Byte) (n : Nat) : (s.setRandom l n).v = s.v := rfl
@[simp] theorem State.setRandom_i (s : State) (l : List Byte) (n : Nat) : (s.setRandom l n).i = s.i := rfl
@[simp] theorem State.setRandom_sp (s : State) (l : List Byte) (n : Nat) : (s.setRandom l n).sp = s.sp := rfl
@[simp] theorem State.setRandom_dt (s : State) (l : List Byte) (n : Nat) : (s.setRandom l n).dt = s.dt := rfl
@[simp] theorem State.setRandom_st (s : State) (l : List Byte) (n : Nat) : (s.setRandom l n).st = s.st := rfl
@[simp] theorem State.setRandom_pc (s : State) (l : List Byte) (n : Nat) : (s.setRandom l n).pc = s.pc := rfl
@[simp] theorem State.setRandom_display (s : State) (l : List Byte) (n : Nat) : (s.setRandom l n).display = s.display := rfl
@[simp] theorem State.setRandom_keys (s : State) (l : List Byte) (n : Nat) : (s.setRandom l n).keys = s.keys := rfl
@[simp] theorem State.setRandom_wait (s : State) (l : List Byte) (n : Nat) : (s.setRandom l n).wait = s.wait := rfl
@[simp] theorem State.setRandom_halt (s : State) (l : List Byte) (n : Nat) : (s.setRandom l n).halt = s.halt := rfl
@[simp] theorem State.setRandom_randIn (s : State) (l : List Byte) (n : Nat) : (s.setRandom l n).randIn = l := rfl
@[simp] theorem State.setRandom_draws (s : State) (l : List Byte) (n : Nat) : (s.setRandom l n).draws = n := rfl
@[simp] theorem State.setRandom_reg (s : State) (l : List Byte) (n : Nat) (j : RegIdx) : (s.setRandom l n).reg j = s.reg j := rfl
@[simp] theorem State.setRandom_key (s : State) (l : List Byte) (n : Nat) (j : KeyCode) : (s.setRandom l n).key j = s.key j := rfl

/-! ### setReg -/

@[simp] theorem State.setReg_mem (s : State) (x : RegIdx) (b : Byte) : (s.setReg x b).mem = s.mem := rfl
@[simp] theorem State.setReg_v (s : State) (x : RegIdx) (b : Byte) : (s.setReg x b).v = s.v.set x.val b x.isLt := rfl
@[simp] theorem State.setReg_i (s : State) (x : RegIdx) (b : Byte) : (s.setReg x b).i = s.i := rfl
@[simp] theorem State.setReg_sp (s : State) (x : RegIdx) (b : Byte) : (s.setReg x b).sp = s.sp := rfl
@[simp] theorem State.setReg_dt (s : State) (x : RegIdx) (b : Byte) : (s.setReg x b).dt = s.dt := rfl
@[simp] theorem State.setReg_st (s : State) (x : RegIdx) (b : Byte) : (s.setReg x b).st = s.st := rfl
@[simp] theorem State.setReg_pc (s : State) (x : RegIdx) (b : Byte) : (s.setReg x b).pc = s.pc := rfl
@[simp] theorem State.setReg_display (s : State) (x : RegIdx) (b : Byte) : (s.setReg x b).display = s.display := rfl
@[simp] theorem State.setReg_keys (s : State) (x : RegIdx) (b : Byte) : (s.setReg x b).keys = s.keys := rfl
@[simp] theorem State.setReg_wait (s : State) (x : RegIdx) (b : Byte) : (s.setReg x b).wait = s.wait := rfl
@[simp] theorem State.setReg_halt (s : State) (x : RegIdx) (b : Byte) : (s.setReg x b).halt = s.halt := rfl
@[simp] theorem State.setReg_randIn (s : State) (x : RegIdx) (b : Byte) : (s.setReg x b).randIn = s.randIn := rfl
@[simp] theorem State.setReg_draws (s : State) (x : RegIdx) (b : Byte) : (s.setReg x b).draws = s.draws := rfl
@[simp] theorem State.setReg_key (s : State) (x : RegIdx) (b : Byte) (j : KeyCode) : (s.setReg x b).key j = s.key j := rfl

/-! ### setKey -/

@[simp] theorem State.setKey_mem (s : State) (k : KeyCode) (b : Bool) : (s.setKey k b).mem = s.mem := rfl
@[simp] theorem State.setKey_v (s : State) (k : KeyCode) (b : Bool) : (s.setKey k b).v = s.v := rfl
@[simp] theorem State.setKey_i (s : State) (k : KeyCode) (b : Bool) : (s.setKey k b).i = s.i := rfl
@[simp] theorem State.setKey_sp (s : State) (k : KeyCode) (b : Bool) : (s.setKey k b).sp = s.sp := rfl
@[simp] theorem State.setKey_dt (s : State) (k : KeyCode) (b : Bool) : (s.setKey k b).dt = s.dt := rfl
@[simp] theorem State.setKey_st (s : State) (k : KeyCode) (b : Bool) : (s.setKey k b).st = s.st := rfl
@[simp] theorem State.setKey_pc (s : State) (k : KeyCode) (b : Bool) : (s.setKey k b).pc = s.pc := rfl
@[simp] theorem State.setKey_display (s : State) (k : KeyCode) (b : Bool) : (s.setKey k b).display = s.display := rfl
@[simp] theorem State.setKey_keys (s : State) (k : KeyCode) (b : Bool) : (s.setKey k b).keys = s.keys.set k.val b k.isLt := rfl
@[simp] theorem State.setKey_wait (s : State) (k : KeyCode) (b : Bool) : (s.setKey k b).wait = s.wait := rfl
@[simp] theorem State.setKey_halt (s : State) (k : KeyCode) (b : Bool) : (s.setKey k b).halt = s.halt := rfl
@[simp] theorem State.setKey_randIn (s : State) (k : KeyCode) (b : Bool) : (s.setKey k b).randIn = s.randIn := rfl
@[simp] theorem State.setKey_draws (s : State) (k : KeyCode) (b : Bool) : (s.setKey k b).draws = s.draws := rfl
@[simp] theorem State.setKey_reg (s : State) (k : KeyCode) (b : Bool) (j : RegIdx) : (s.setKey k b).reg j = s.reg j := rfl

/-! ### advance -/

@[simp] theorem State.advance_mem (s : State) : (s.advance).mem = s.mem := rfl
@[simp] theorem State.advance_v (s : State) : (s.advance).v = s.v := rfl
@[simp] theorem State.advance_i (s : State) : (s.advance).i = s.i := rfl
@[simp] theorem State.advance_sp (s : State) : (s.advance).sp = s.sp := rfl
@[simp] theorem State.advance_dt (s : State) : (s.advance).dt = s.dt := rfl
@[simp] theorem State.advance_st (s : State) : (s.advance).st = s.st := rfl
@[simp] theorem State.advance_pc (s : State) : (s.advance).pc = s.pc + 2 := rfl
@[simp] theorem State.advance_display (s : State) : (s.advance).display = s.display := rfl
@[simp] theorem State.advance_keys (s : State) : (s.advance).keys = s.keys := rfl
@[simp] theorem State.advance_wait (s : State) : (s.advance).wait = s.wait := rfl
@[simp] theorem State.advance_halt (s : State) : (s.advance).halt = s.halt := rfl
@[simp] theorem State.advance_randIn (s : State) : (s.advance).randIn = s.randIn := rfl
@[simp] theorem State.advance_draws (s : State) : (s.advance).draws = s.draws := rfl
@[simp] theorem State.advance_reg (s : State) (j : RegIdx) : (s.advance).reg j = s.reg j := rfl
@[simp] theorem State.advance_key (s : State) (j : KeyCode) : (s.advance).key j = s.key j := rfl

/-! ### skipIf -/

@[simp] theorem State.skipIf_mem (s : State) (c : Bool) : (s.skipIf c).mem = s.mem := rfl
@[simp] theorem State.skipIf_v (s : State) (c : Bool) : (s.skipIf c).v = s.v := rfl
@[simp] theorem State.skipIf_i (s : State) (c : Bool) : (s.skipIf c).i = s.i := rfl
@[simp] theorem State.skipIf_sp (s : State) (c : Bool) : (s.skipIf c).sp = s.sp := rfl
@[simp] theorem State.skipIf_dt (s : State) (c : Bool) : (s.skipIf c).dt = s.dt := rfl
@[simp] theorem State.skipIf_st (s : State) (c : Bool) : (s.skipIf c).st = s.st := rfl
@[simp] theorem State.skipIf_pc (s : State) (c : Bool) : (s.skipIf c).pc = if c then s.pc + 4 else s.pc + 2 := rfl
@[simp] theorem State.skipIf_display (s : State) (c : Bool) : (s.skipIf c).display = s.display := rfl
@[simp] theorem State.skipIf_keys (s : State) (c : Bool) : (s.skipIf c).keys = s.keys := rfl
@[simp] theorem State.skipIf_wait (s : State) (c : Bool) : (s.skipIf c).wait = s.wait := rfl
@[simp] theorem State.skipIf_halt (s : State) (c : Bool) : (s.skipIf c).halt = s.halt := rfl
@[simp] theorem State.skipIf_randIn (s : State) (c : Bool) : (s.skipIf c).randIn = s.randIn := rfl
@[simp] theorem State.skipIf_draws (s : State) (c : Bool) : (s.skipIf c).draws = s.draws := rfl
@[simp] theorem State.skipIf_reg (s : State) (c : Bool) (j : RegIdx) : (s.skipIf c).reg j = s.reg j := rfl
@[simp] theorem State.skipIf_key (s : State) (c : Bool) (j : KeyCode) : (s.skipIf c).key j = s.key j := rfl

/-! ### setRegFlag -/

@[simp] theorem State.setRegFlag_mem (s : State) (x : RegIdx) (b : Byte) (c : Bool) : (s.setRegFlag x b c).mem = s.mem := rfl
@[simp] theorem State.setRegFlag_i (s : State) (x : RegIdx) (b : Byte) (c : Bool) : (s.setRegFlag x b c).i = s.i := rfl
@[simp] theorem State.setRegFlag_sp (s : State) (x : RegIdx) (b : Byte) (c : Bool) : (s.setRegFlag x b c).sp = s.sp := rfl
@[simp] theorem State.setRegFlag_dt (s : State) (x : RegIdx) (b : Byte) (c : Bool) : (s.setRegFlag x b c).dt = s.dt := rfl
@[simp] theorem State.setRegFlag_st (s : State) (x : RegIdx) (b : Byte) (c : Bool) : (s.setRegFlag x b c).st = s.st := rfl
@[simp] theorem State.setRegFlag_pc (s : State) (x : RegIdx) (b : Byte) (c : Bool) : (s.setRegFlag x b c).pc = s.pc := rfl
@[simp] theorem State.setRegFlag_display (s : State) (x : RegIdx) (b : Byte) (c : Bool) : (s.setRegFlag x b c).display = s.display := rfl
@[simp] theorem State.setRegFlag_keys (s : State) (x : RegIdx) (b : Byte) (c : Bool) : (s.setRegFlag x b c).keys = s.keys := rfl
@[simp] theorem State.setRegFlag_wait (s : State) (x : RegIdx) (b : Byte) (c : Bool) : (s.setRegFlag x b c).wait = s.wait := rfl
@[simp] theorem State.setRegFlag_halt (s : State) (x : RegIdx) (b : Byte) (c : Bool) : (s.setRegFlag x b c).halt = s.halt := rfl
@[simp] theorem State.setRegFlag_randIn (s : State) (x : RegIdx) (b : Byte) (c : Bool) : (s.setRegFlag x b c).randIn = s.randIn := rfl
@[simp] theorem State.setRegFlag_draws (s : State) (x : RegIdx) (b : Byte) (c : Bool) : (s.setRegFlag x b c).draws = s.draws := rfl
@[simp] theorem State.setRegFlag_key (s : State) (x : RegIdx) (b : Byte) (c : Bool) (j : KeyCode) : (s.setRegFlag x b c).key j = s.key j := rfl

/-! ### drawn -/

@[simp] theorem State.drawn_mem (s : State) : s.drawn.mem = s.mem := by unfold State.drawn; split <;> rfl
@[simp] theorem State.drawn_v (s : State) : s.drawn.v = s.v := by unfold State.drawn; split <;> rfl
@[simp] theorem State.drawn_i (s : State) : s.drawn.i = s.i := by unfold State.drawn; split <;> rfl
@[simp] theorem State.drawn_sp (s : State) : s.drawn.sp = s.sp := by unfold State.drawn; split <;> rfl
@[simp] theorem State.drawn_dt (s : State) : s.drawn.dt = s.dt := by unfold State.drawn; split <;> rfl
@[simp] theorem State.drawn_st (s : State) : s.drawn.st = s.st := by unfold State.drawn; split <;> rfl
@[simp] theorem State.drawn_pc (s : State) : s.drawn.pc = s.pc := by unfold State.drawn; split <;> rfl
@[simp] theorem State.drawn_display (s : State) : s.drawn.display = s.display := by unfold State.drawn; split <;> rfl
@[simp] theorem State.drawn_keys (s : State) : s.drawn.keys = s.keys := by unfold State.drawn; split <;> rfl
@[simp] theorem State.drawn_wait (s : State) : s.drawn.wait = s.wait := by unfold State.drawn; split <;> rfl
@[simp] theorem State.drawn_halt (s : State) : s.drawn.halt = s.halt := by unfold State.drawn; split <;> rfl
@[simp] theorem State.drawn_reg (s : State) (j : RegIdx) : s.drawn.reg j = s.reg j := by unfold State.drawn; split <;> rfl
@[simp] theorem State.drawn_key (s : State) (j : KeyCode) : s.drawn.key j = s.key j := by unfold State.drawn; split <;> rfl

/-! ### Reads after writes of the same register or key -/

theorem State.reg_setReg (s : State) (x j : RegIdx) (b : Byte) :
    (s.setReg x b).reg j = if j = x then b else s.reg j := by
  simp only [State.reg, State.setReg, Fin.getElem_fin, Vector.getElem_set, Fin.ext_iff]
  simp only [eq_comm]

@[simp] theorem State.reg_setReg_same (s : State) (x : RegIdx) (b : Byte) : (s.setReg x b).reg x = b := by
  simp [State.reg_setReg]

theorem State.reg_setReg_other (s : State) (b : Byte) (h : j ≠ x) : (s.setReg x b).reg j = s.reg j := by
  simp [State.reg_setReg, h]

theorem State.key_setKey (s : State) (x j : KeyCode) (b : Bool) :
    (s.setKey x b).key j = if j = x then b else s.key j := by
  simp only [State.key, State.setKey, Fin.getElem_fin, Vector.getElem_set, Fin.ext_iff]
  simp only [eq_comm]

/-- A flag writer leaves VF as the flag and, where it is not VF, its destination as the result. -/
theorem State.reg_setRegFlag (s : State) (x j : RegIdx) (b : Byte) (c : Bool) :
    (s.setRegFlag x b c).reg j = if j = VF then flagByte c else if j = x then b else s.reg j := by
  simp only [State.setRegFlag, State.setRegFlagIn, vfAliasOrder, State.reg_setReg]

end Sys2Proof.Machine
end

