-- ==== Sys2Proof/Laws/Ops.lean ====
section
/-! SUPPORT. For each range-checked operation, one lemma for when it succeeds and with what, and one for when it
halts and with which address. -/

namespace Sys2Proof.Machine

@[simp] theorem State.commit_ok {α : Type} (s : State) (a : α) (k : α → State) : s.commit (.ok a) k = k a := rfl

@[simp] theorem State.commit_error {α : Type} (s : State) (h : Halt) (k : α → State) :
    s.commit (.error h) k = s.raiseHalt h := rfl

/-- A commit either halts in the pre-state or applies whole. -/
theorem State.commit_cases {α : Type} (s : State) (r : Except Halt α) (k : α → State) :
    (∃ h, r = .error h ∧ s.commit r k = s.raiseHalt h) ∨ ∃ a, r = .ok a ∧ s.commit r k = k a := by
  cases r with
  | error h => exact .inl ⟨h, rfl, rfl⟩
  | ok a => exact .inr ⟨a, rfl, rfl⟩

theorem readByte_ok (m : Memory) (h : a < memSize) : readByte m a = .ok (m.read a) := if_pos h

theorem readByte_error (m : Memory) (h : memSize ≤ a) : readByte m a = .error (.memoryOutOfRange a) :=
  if_neg (by omega)

theorem writeByte_ok (m : Memory) (b : Byte) (h : a < memSize) : writeByte m a b = .ok (m.write a b) := if_pos h

theorem writeByte_error (m : Memory) (b : Byte) (h : memSize ≤ a) :
    writeByte m a b = .error (.memoryOutOfRange a) := if_neg (by omega)

/-- A read of `n` bytes that all exist gives them in ascending order. -/
theorem readBytes_ok (m : Memory) (a n : Nat) (h : n = 0 ∨ a + n ≤ memSize) :
    readBytes m a n = .ok ((List.range n).map fun j => m.read (a + j)) := by
  induction n generalizing a with
  | zero => rfl
  | succ n ih =>
    have ha : a < memSize := by omega
    rw [readBytes, readByte_ok m ha]
    simp only [ih (a + 1) (by omega), List.range_succ_eq_map, List.map_cons, List.map_map, Nat.add_zero]
    congr 2
    exact List.map_congr_left fun j _ => by simp [Nat.add_assoc, Nat.add_comm 1 j]

/-- A read that reaches past memory reports the lowest address out of range (20_memory.md R52). -/
theorem readBytes_error (m : Memory) (a n : Nat) (hn : 0 < n) (h : memSize < a + n) :
    readBytes m a n = .error (.memoryOutOfRange (max a memSize)) := by
  induction n generalizing a with
  | zero => omega
  | succ n ih =>
    by_cases ha : a < memSize
    · rw [readBytes, readByte_ok m ha]
      have hmax : max (a + 1) memSize = max a memSize := by omega
      simp only [ih (a + 1) (by omega) (by omega), hmax]
    · rw [readBytes, readByte_error m (by omega), Nat.max_eq_left (by omega)]

/-- A write of bytes whose addresses all exist: each is read at its address, and every other address reads as
before; the canonical form is kept. -/
theorem writeBytes_ok (m : Memory) (a : Nat) (bytes : List Byte) (h : bytes = [] ∨ a + bytes.length ≤ memSize) :
    ∃ m', writeBytes m a bytes = .ok m' ∧ (m.wf → m'.wf) ∧
      ∀ a', m'.read a' = if h : a ≤ a' ∧ a' < a + bytes.length then bytes[a' - a]'(by omega) else m.read a' := by
  induction bytes generalizing m a with
  | nil => exact ⟨m, rfl, id, fun a' => by simp⟩
  | cons b bytes ih =>
    have ha : a < memSize := by simp at h; omega
    obtain ⟨m', hw, hwf, hr⟩ := ih (m.write a b) (a + 1) (by simp at h; exact .inr (by omega))
    refine ⟨m', by rw [writeBytes, writeByte_ok m b ha]; exact hw, fun hm => hwf (Memory.write_wf hm ha b), fun a' => ?_⟩
    rw [hr a', Memory.read_write]
    by_cases h1 : a' = a
    · subst h1
      simp
    · by_cases h2 : a + 1 ≤ a' ∧ a' < a + 1 + bytes.length
      · have h3 : a ≤ a' ∧ a' < a + (b :: bytes).length := by simp; omega
        rw [dif_pos h2, dif_pos h3]
        have : a' - a = (a' - (a + 1)) + 1 := by omega
        simp [this]
      · have h3 : ¬(a ≤ a' ∧ a' < a + (b :: bytes).length) := by simp; omega
        rw [dif_neg h2, dif_neg h3, if_neg h1]

/-- A write that reaches past memory reports the lowest address out of range (20_memory.md R52). -/
theorem writeBytes_error (m : Memory) (a : Nat) (bytes : List Byte) (hn : bytes ≠ [])
    (h : memSize < a + bytes.length) : writeBytes m a bytes = .error (.memoryOutOfRange (max a memSize)) := by
  induction bytes generalizing m a with
  | nil => exact absurd rfl hn
  | cons b bytes ih =>
    by_cases ha : a < memSize
    · rw [writeBytes, writeByte_ok m b ha]
      have hmax : max (a + 1) memSize = max a memSize := by omega
      have hne : bytes ≠ [] := by rintro rfl; simp at h; omega
      simp only [ih (m.write a b) (a + 1) hne (by simp at h; omega), hmax]
    · rw [writeBytes, writeByte_error m b (by omega), Nat.max_eq_left (by omega)]

/-- Every outcome of a write: it applies and keeps the canonical form, or it reports an address out of range. -/
theorem writeBytes_cases (m : Memory) (a : Nat) (bytes : List Byte) :
    (∃ m', writeBytes m a bytes = .ok m' ∧ (m.wf → m'.wf)) ∨
      ∃ e, memSize ≤ e ∧ writeBytes m a bytes = .error (.memoryOutOfRange e) := by
  by_cases h : bytes = [] ∨ a + bytes.length ≤ memSize
  · obtain ⟨m', hw, hwf, -⟩ := writeBytes_ok m a bytes h
    exact .inl ⟨m', hw, hwf⟩
  · exact .inr ⟨max a memSize, by omega, writeBytes_error m a bytes (by tauto) (by omega)⟩

/-- Every outcome of a read. -/
theorem readBytes_cases (m : Memory) (a n : Nat) :
    (∃ bytes, readBytes m a n = .ok bytes ∧ bytes.length = n) ∨
      ∃ e, memSize ≤ e ∧ readBytes m a n = .error (.memoryOutOfRange e) := by
  by_cases h : n = 0 ∨ a + n ≤ memSize
  · exact .inl ⟨_, readBytes_ok m a n h, by simp⟩
  · exact .inr ⟨max a memSize, by omega, readBytes_error m a n (by omega) (by omega)⟩

/-- A word read inside memory is its two bytes, high byte first. -/
theorem readWord_ok (m : Memory) (h : a + 1 < memSize) :
    readWord m a = .ok (concatBytes (m.read a) (m.read (a + 1))) := by
  rw [readWord, readByte_ok m (by omega), readByte_ok m h]

/-- A word read that reaches past memory reports the lower address if it is out of range, else the higher. -/
theorem readWord_error (m : Memory) (h : memSize ≤ a + 1) :
    readWord m a = .error (.memoryOutOfRange (max a memSize)) := by
  by_cases ha : a < memSize
  · have : a + 1 = max a memSize := by omega
    rw [readWord, readByte_ok m ha, readByte_error m h, this]
  · rw [readWord, readByte_error m (by omega), Nat.max_eq_left (by omega)]

/-- A fetch inside memory gives the big-endian word at PC. -/
theorem fetchWord_ok (s : State) (h : s.fetchable) :
    fetchWord s = .ok (concatBytes (s.mem.read s.pc.toNat) (s.mem.read (s.pc.toNat + 1))) := by
  have h' : ¬ s.pc.toNat + 1 > 0xFFF := by omega
  rw [fetchWord, if_neg h', readWord_ok s.mem (by show _ < 0x1000; omega)]

theorem fetchWord_error (s : State) (h : ¬ s.fetchable) : fetchWord s = .error (.fetchOutOfRange s.pc) :=
  if_pos (by omega)

/-- The registers after a fill from `j`: the bytes where there are some, the old values elsewhere. -/
theorem fillRegs_getElem (v : Vector Byte 16) (j : Nat) (bytes : List Byte) (k : Nat) (hk : k < 16) :
    (fillRegs v j bytes)[k] = if h : j ≤ k ∧ k < j + bytes.length then bytes[k - j]'(by omega) else v[k] := by
  induction bytes generalizing v j with
  | nil => simp [fillRegs]
  | cons b bytes ih =>
    rw [fillRegs, ih]
    by_cases h1 : k = j
    · subst h1
      simp
    · by_cases h2 : j + 1 ≤ k ∧ k < j + 1 + bytes.length
      · have h3 : j ≤ k ∧ k < j + (b :: bytes).length := by simp; omega
        rw [dif_pos h2, dif_pos h3]
        have : k - j = (k - (j + 1)) + 1 := by omega
        simp [this]
      · have h3 : ¬(j ≤ k ∧ k < j + (b :: bytes).length) := by simp; omega
        rw [dif_neg h2, dif_neg h3, Vector.getElem_setIfInBounds_ne hk (by omega)]

/-- The registers dump-regs stores are V0 to Vx, in order. -/
theorem regsUpTo_length (s : State) (x : RegIdx) : (s.regsUpTo x).length = x.val + 1 := by
  simp [State.regsUpTo]

theorem regsUpTo_getElem (s : State) (x : RegIdx) (j : Nat) (h : j < (s.regsUpTo x).length) :
    (s.regsUpTo x)[j] = s.reg ⟨j, by have := x.isLt; rw [regsUpTo_length] at h; omega⟩ := by
  simp [State.regsUpTo, State.reg]

theorem keyOperand_ok (h : b.toNat < 16) : keyOperand b = .ok ⟨b.toNat, h⟩ := dif_pos h

theorem keyOperand_error (h : 15 < b.toNat) : keyOperand b = .error (.keyOutOfRange b) := dif_neg (by omega)

end Sys2Proof.Machine
end

