-- ==== Sys2Proof/Laws/Frame.lean ====
section
/-! SUPPORT. How a frame passes through the field updates, the two PC advances as truncated sums, and STEP taken
apart once for a running machine. -/

namespace Sys2Proof.Machine

theorem word_add_two (a : Word) : a + 2 = u16 (a.toNat + 2) := by apply BitVec.eq_of_toNat_eq; simp

theorem word_add_four (a : Word) : a + 4 = u16 (a.toNat + 4) := by apply BitVec.eq_of_toNat_eq; simp

theorem zextAddr_eq (n : Addr12) : zextAddr n = u16 n.toNat := by apply BitVec.eq_of_toNat_eq; simp [zextAddr]

theorem zextByte_eq (b : Byte) : zextByte b = u16 b.toNat := by apply BitVec.eq_of_toNat_eq; simp [zextByte]

theorem Frame.refl (regs : List RegIdx) (parts : List Part) (s : State) : Frame regs parts s s :=
  ⟨fun _ _ => rfl, fun p _ => by cases p <;> simp [Part.same]⟩

theorem Frame.setPc (h : Frame regs parts s t) (a : Word) : Frame regs parts s (t.setPc a) :=
  ⟨h.1, fun q hq => by have := h.2 q hq; cases q <;> exact this⟩

theorem Frame.advance (h : Frame regs parts s t) : Frame regs parts s t.advance := h.setPc _

theorem Frame.setReg (h : Frame regs parts s t) (hx : x ∈ regs) (b : Byte) : Frame regs parts s (t.setReg x b) :=
  ⟨fun j hj => by
    have hne : j ≠ x := by rintro rfl; exact hj hx
    rw [State.reg_setReg_other _ _ hne]
    exact h.1 j hj,
   fun q hq => by have := h.2 q hq; cases q <;> exact this⟩

theorem Frame.setRegFlag (h : Frame regs parts s t) (hx : x ∈ regs) (hf : VF ∈ regs) (b : Byte) (c : Bool) :
    Frame regs parts s (t.setRegFlag x b c) := (h.setReg hx _).setReg hf _

theorem Frame.setRegs (h : Frame regs parts s t) (v : Vector Byte 16) (hv : ∀ j : RegIdx, j ∉ regs → v[j] = s.reg j) :
    Frame regs parts s (t.setRegs v) :=
  ⟨hv, fun q hq => by have := h.2 q hq; cases q <;> exact this⟩

theorem Frame.setIndex (h : Frame regs parts s t) (hp : .index ∈ parts) (a : Word) :
    Frame regs parts s (t.setIndex a) :=
  ⟨h.1, fun q hq => by have := h.2 q hq; cases q <;> first | exact this | exact absurd hp hq⟩

theorem Frame.setSp (h : Frame regs parts s t) (hp : .sp ∈ parts) (a : Word) : Frame regs parts s (t.setSp a) :=
  ⟨h.1, fun q hq => by have := h.2 q hq; cases q <;> first | exact this | exact absurd hp hq⟩

theorem Frame.setMem (h : Frame regs parts s t) (hp : .memory ∈ parts) (m : Memory) :
    Frame regs parts s (t.setMem m) :=
  ⟨h.1, fun q hq => by have := h.2 q hq; cases q <;> first | exact this | exact absurd hp hq⟩

theorem Frame.setDt (h : Frame regs parts s t) (hp : .dt ∈ parts) (b : Byte) : Frame regs parts s (t.setDt b) :=
  ⟨h.1, fun q hq => by have := h.2 q hq; cases q <;> first | exact this | exact absurd hp hq⟩

theorem Frame.setSt (h : Frame regs parts s t) (hp : .st ∈ parts) (b : Byte) : Frame regs parts s (t.setSt b) :=
  ⟨h.1, fun q hq => by have := h.2 q hq; cases q <;> first | exact this | exact absurd hp hq⟩

theorem Frame.setDisplay (h : Frame regs parts s t) (hp : .display ∈ parts) (d : Display) :
    Frame regs parts s (t.setDisplay d) :=
  ⟨h.1, fun q hq => by have := h.2 q hq; cases q <;> first | exact this | exact absurd hp hq⟩

theorem Frame.setWait (h : Frame regs parts s t) (hp : .wait ∈ parts) (w : Option RegIdx) :
    Frame regs parts s (t.setWait w) :=
  ⟨h.1, fun q hq => by have := h.2 q hq; cases q <;> first | exact this | exact absurd hp hq⟩

theorem Frame.setKey (h : Frame regs parts s t) (hp : .keys ∈ parts) (k : KeyCode) (b : Bool) :
    Frame regs parts s (t.setKey k b) :=
  ⟨h.1, fun q hq => by have := h.2 q hq; cases q <;> first | exact this | exact absurd hp hq⟩

theorem Frame.setRandom (h : Frame regs parts s t) (hp : .random ∈ parts) (l : List Byte) (n : Nat) :
    Frame regs parts s (t.setRandom l n) :=
  ⟨h.1, fun q hq => by have := h.2 q hq; cases q <;> first | exact this | exact absurd hp hq⟩

theorem Frame.drawn (h : Frame regs parts s t) (hp : .random ∈ parts) : Frame regs parts s t.drawn := by
  unfold State.drawn
  split <;> exact h.setRandom hp _ _

theorem Frame.raiseHalt (h : Frame regs parts s t) (hp : .halt ∈ parts) (k : Halt) :
    Frame regs parts s (t.raiseHalt k) :=
  ⟨h.1, fun q hq => by have := h.2 q hq; cases q <;> first | exact this | exact absurd hp hq⟩

/-- STEP of a running machine is its fetch and decode, then the instruction (40_engine.md R103). -/
theorem step_of_running (s : State) (h : s.running) :
    step s = match fetchInstr s with
      | .error e => .next (s.raiseHalt e)
      | .ok i => exec i s := by
  cases hf : fetchInstr s <;> simp [step, cycle, h.1, h.2, hf]

/-- STEP of a halted or suspended machine leaves it alone (40_engine.md R106, R107). -/
theorem step_of_not_running (s : State) (h : ¬ s.running) : step s = .next s := by
  unfold step cycle
  cases hh : s.halt <;> cases hw : s.wait <;> simp_all

end Sys2Proof.Machine
end

