-- ==== Sys2Proof/Laws/Framebuffer.lean ====
section
/-! SUPPORT. What one plotted sprite bit does to the framebuffer, and the blank framebuffer. -/

namespace Sys2Proof.Machine

@[simp] theorem blankDisplay_get (col : ColIdx) (row : RowIdx) : blankDisplay.get col row = false := by
  simp [blankDisplay, Display.get]

/-- A plotted bit flips the pixel at its coordinates and no other; outside the grid it flips none. -/
theorem Display.plot_get (d : Display) (px py : Nat) (col : ColIdx) (row : RowIdx) :
    (d.plot px py).1.get col row = (d.get col row ^^ (decide (px = col.val) && decide (py = row.val))) := by
  unfold Display.plot Display.get
  split
  · rename_i h
    simp only [Fin.getElem_fin, Vector.getElem_set]
    by_cases h1 : py = row.val
    · subst h1
      by_cases h2 : px = col.val
      · subst h2; simp
      · simp [h2]
    · simp [h1]
  · rename_i h
    have : ¬(px = col.val ∧ py = row.val) := fun ⟨h1, h2⟩ => h ⟨h1 ▸ col.isLt, h2 ▸ row.isLt⟩
    rw [not_and] at this
    by_cases h1 : px = col.val <;> simp [h1, this]

/-- A plotted bit collides when its pixel exists and was on. -/
theorem Display.plot_hit (d : Display) (px py : Nat) :
    (d.plot px py).2 = true ↔ ∃ (col : ColIdx) (row : RowIdx), px = col.val ∧ py = row.val ∧ d.get col row = true := by
  unfold Display.plot Display.get
  split
  · rename_i h
    refine ⟨fun e => ⟨⟨px, h.1⟩, ⟨py, h.2⟩, rfl, rfl, e⟩, ?_⟩
    rintro ⟨col, row, rfl, rfl, e⟩
    exact e
  · rename_i h
    refine ⟨fun e => by simp at e, ?_⟩
    rintro ⟨col, row, rfl, rfl, -⟩
    exact absurd ⟨col.isLt, row.isLt⟩ h

end Sys2Proof.Machine
end

