-- ==== Sys2Proof/Laws/PerInstr.lean ====
section
/-! SUPPORT. The family MatchesRow, one lemma per instruction: the word the encoder gives a well-formed instruction
matches the row of spec/opcode_table.json that bears its name (30_encoding.md R75). -/

namespace Sys2Proof.Laws.MatchesRow

/-- The encoding of a well-formed `i` matches the opcode-table row of its name. -/
def Statement (i : Instr) : Prop :=
  i.wf = true → ∃ r ∈ opcodeTable, r.mnemonic = i.mnemonic ∧ r.matches (encode i) = true

theorem clearScreen : Statement (.clearScreen) := fun _ =>
  ⟨⟨"clear-screen", 0xFFFF, 0x00E0⟩, by simp [opcodeTable], rfl, by decide⟩

theorem ret : Statement (.ret) := fun _ =>
  ⟨⟨"return", 0xFFFF, 0x00EE⟩, by simp [opcodeTable], rfl, by decide⟩

theorem jump (nnn : Addr12) : Statement (.jump nnn) := fun _ =>
  ⟨⟨"jump", 0xF000, 0x1000⟩, by simp [opcodeTable], rfl, matches_NNN _ 0x1 nnn (by decide)⟩

theorem call (nnn : Addr12) : Statement (.call nnn) := fun _ =>
  ⟨⟨"call", 0xF000, 0x2000⟩, by simp [opcodeTable], rfl, matches_NNN _ 0x2 nnn (by decide)⟩

theorem skipEqImm (x : RegIdx) (kk : Byte) : Statement (.skipEqImm x kk) := fun _ =>
  ⟨⟨"skip-eq-imm", 0xF000, 0x3000⟩, by simp [opcodeTable], rfl, matches_XKK _ 0x3 x kk (by decide)⟩

theorem skipNeImm (x : RegIdx) (kk : Byte) : Statement (.skipNeImm x kk) := fun _ =>
  ⟨⟨"skip-ne-imm", 0xF000, 0x4000⟩, by simp [opcodeTable], rfl, matches_XKK _ 0x4 x kk (by decide)⟩

theorem skipEqReg (x y : RegIdx) : Statement (.skipEqReg x y) := fun _ =>
  ⟨⟨"skip-eq-reg", 0xF00F, 0x5000⟩, by simp [opcodeTable], rfl, matches_XY _ 0x5 x y 0x0 (by decide) (by decide)⟩

theorem loadImm (x : RegIdx) (kk : Byte) : Statement (.loadImm x kk) := fun _ =>
  ⟨⟨"load-imm", 0xF000, 0x6000⟩, by simp [opcodeTable], rfl, matches_XKK _ 0x6 x kk (by decide)⟩

theorem addImm (x : RegIdx) (kk : Byte) : Statement (.addImm x kk) := fun _ =>
  ⟨⟨"add-imm", 0xF000, 0x7000⟩, by simp [opcodeTable], rfl, matches_XKK _ 0x7 x kk (by decide)⟩

theorem move (x y : RegIdx) : Statement (.move x y) := fun _ =>
  ⟨⟨"move", 0xF00F, 0x8000⟩, by simp [opcodeTable], rfl, matches_XY _ 0x8 x y 0x0 (by decide) (by decide)⟩

theorem orReg (x y : RegIdx) : Statement (.orReg x y) := fun _ =>
  ⟨⟨"or", 0xF00F, 0x8001⟩, by simp [opcodeTable], rfl, matches_XY _ 0x8 x y 0x1 (by decide) (by decide)⟩

theorem andReg (x y : RegIdx) : Statement (.andReg x y) := fun _ =>
  ⟨⟨"and", 0xF00F, 0x8002⟩, by simp [opcodeTable], rfl, matches_XY _ 0x8 x y 0x2 (by decide) (by decide)⟩

theorem xorReg (x y : RegIdx) : Statement (.xorReg x y) := fun _ =>
  ⟨⟨"xor", 0xF00F, 0x8003⟩, by simp [opcodeTable], rfl, matches_XY _ 0x8 x y 0x3 (by decide) (by decide)⟩

theorem addReg (x y : RegIdx) : Statement (.addReg x y) := fun _ =>
  ⟨⟨"add-reg", 0xF00F, 0x8004⟩, by simp [opcodeTable], rfl, matches_XY _ 0x8 x y 0x4 (by decide) (by decide)⟩

theorem subReg (x y : RegIdx) : Statement (.subReg x y) := fun _ =>
  ⟨⟨"sub-reg", 0xF00F, 0x8005⟩, by simp [opcodeTable], rfl, matches_XY _ 0x8 x y 0x5 (by decide) (by decide)⟩

theorem shr (x y : RegIdx) : Statement (.shr x y) := fun _ =>
  ⟨⟨"shr", 0xF00F, 0x8006⟩, by simp [opcodeTable], rfl, matches_XY _ 0x8 x y 0x6 (by decide) (by decide)⟩

theorem subnReg (x y : RegIdx) : Statement (.subnReg x y) := fun _ =>
  ⟨⟨"subn-reg", 0xF00F, 0x8007⟩, by simp [opcodeTable], rfl, matches_XY _ 0x8 x y 0x7 (by decide) (by decide)⟩

theorem shl (x y : RegIdx) : Statement (.shl x y) := fun _ =>
  ⟨⟨"shl", 0xF00F, 0x800E⟩, by simp [opcodeTable], rfl, matches_XY _ 0x8 x y 0xE (by decide) (by decide)⟩

theorem skipNeReg (x y : RegIdx) : Statement (.skipNeReg x y) := fun _ =>
  ⟨⟨"skip-ne-reg", 0xF00F, 0x9000⟩, by simp [opcodeTable], rfl, matches_XY _ 0x9 x y 0x0 (by decide) (by decide)⟩

theorem setIndex (nnn : Addr12) : Statement (.setIndex nnn) := fun _ =>
  ⟨⟨"set-index", 0xF000, 0xA000⟩, by simp [opcodeTable], rfl, matches_NNN _ 0xA nnn (by decide)⟩

theorem indexedJump (nnn : Addr12) : Statement (.indexedJump nnn) := fun _ =>
  ⟨⟨"indexed-jump", 0xF000, 0xB000⟩, by simp [opcodeTable], rfl, matches_NNN _ 0xB nnn (by decide)⟩

theorem rand (x : RegIdx) (kk : Byte) : Statement (.rand x kk) := fun _ =>
  ⟨⟨"rand", 0xF000, 0xC000⟩, by simp [opcodeTable], rfl, matches_XKK _ 0xC x kk (by decide)⟩

theorem draw (x y : RegIdx) (n : Nat) : Statement (.draw x y n) := fun h =>
  ⟨⟨"draw", 0xF000, 0xD000⟩, by simp [opcodeTable], rfl, matches_XYN _ 0xD x y n (by decide) (of_decide_eq_true h)⟩

theorem skipKeyDown (x : RegIdx) : Statement (.skipKeyDown x) := fun _ =>
  ⟨⟨"skip-key-down", 0xF0FF, 0xE09E⟩, by simp [opcodeTable], rfl, matches_XFN _ 0xE x 0x9E (by decide) (by decide)⟩

theorem skipKeyUp (x : RegIdx) : Statement (.skipKeyUp x) := fun _ =>
  ⟨⟨"skip-key-up", 0xF0FF, 0xE0A1⟩, by simp [opcodeTable], rfl, matches_XFN _ 0xE x 0xA1 (by decide) (by decide)⟩

theorem loadDelay (x : RegIdx) : Statement (.loadDelay x) := fun _ =>
  ⟨⟨"load-delay", 0xF0FF, 0xF007⟩, by simp [opcodeTable], rfl, matches_XFN _ 0xF x 0x07 (by decide) (by decide)⟩

theorem waitKey (x : RegIdx) : Statement (.waitKey x) := fun _ =>
  ⟨⟨"wait-key", 0xF0FF, 0xF00A⟩, by simp [opcodeTable], rfl, matches_XFN _ 0xF x 0x0A (by decide) (by decide)⟩

theorem setDelay (x : RegIdx) : Statement (.setDelay x) := fun _ =>
  ⟨⟨"set-delay", 0xF0FF, 0xF015⟩, by simp [opcodeTable], rfl, matches_XFN _ 0xF x 0x15 (by decide) (by decide)⟩

theorem setSound (x : RegIdx) : Statement (.setSound x) := fun _ =>
  ⟨⟨"set-sound", 0xF0FF, 0xF018⟩, by simp [opcodeTable], rfl, matches_XFN _ 0xF x 0x18 (by decide) (by decide)⟩

theorem addIndex (x : RegIdx) : Statement (.addIndex x) := fun _ =>
  ⟨⟨"add-index", 0xF0FF, 0xF01E⟩, by simp [opcodeTable], rfl, matches_XFN _ 0xF x 0x1E (by decide) (by decide)⟩

theorem spriteAddr (x : RegIdx) : Statement (.spriteAddr x) := fun _ =>
  ⟨⟨"sprite-addr", 0xF0FF, 0xF029⟩, by simp [opcodeTable], rfl, matches_XFN _ 0xF x 0x29 (by decide) (by decide)⟩

theorem bcd (x : RegIdx) : Statement (.bcd x) := fun _ =>
  ⟨⟨"bcd", 0xF0FF, 0xF033⟩, by simp [opcodeTable], rfl, matches_XFN _ 0xF x 0x33 (by decide) (by decide)⟩

theorem dumpRegs (x : RegIdx) : Statement (.dumpRegs x) := fun _ =>
  ⟨⟨"dump-regs", 0xF0FF, 0xF055⟩, by simp [opcodeTable], rfl, matches_XFN _ 0xF x 0x55 (by decide) (by decide)⟩

theorem loadRegs (x : RegIdx) : Statement (.loadRegs x) := fun _ =>
  ⟨⟨"load-regs", 0xF0FF, 0xF065⟩, by simp [opcodeTable], rfl, matches_XFN _ 0xF x 0x65 (by decide) (by decide)⟩

end Sys2Proof.Laws.MatchesRow
end

