-- ==== Sys2Proof/Tests/Slice0.lean ====
section
/-! SUPPORT. The model's own tests. A `test_` theorem states a vector of 95_test_vectors.md (its id stands in the
comment), a pattern of 30_encoding.md R74, or a value worked out by hand from the rule named. A `witness_` theorem
shows states and operands that meet the hypotheses of the obligation it is named after, clause by clause. -/

namespace Sys2Proof.Tests

open Sys2Proof Sys2Proof.Machine

/-- What `f` sees of the next state, if there is one. -/
def view {α : Type} (r : Result) (f : State → α) : Option α :=
  match r with
  | .next t => some (f t)
  | .fault _ => none
  | .refused _ => none

/-- The reset state with some registers set. -/
def regs (l : List (RegIdx × Byte)) : State := l.foldl (fun s r => s.setReg r.1 r.2) State.reset

/-- One STEP of the word `w` placed at PC. -/
def run (s : State) (w : Nat) : Result := step (s.withFetchWord 16 w)

/-- The state with bytes stored from `a` on. -/
def bytesAt (s : State) (a : Nat) (bytes : List Byte) : State :=
  match bytes with
  | [] => s
  | b :: rest => bytesAt (s.setMem (s.mem.write a b)) (a + 1) rest

/-- The state with the pixel turned on. -/
def pixelOn (s : State) (col row : Nat) : State := s.setDisplay (Display.plot s.display col row).1

/-- The pixels that are on in a row of the display. -/
def onInRow (s : State) (row : RowIdx) : List Nat :=
  ((List.finRange 64).filter fun col => s.pixel col row).map fun col => col.val

/-! ## Well-formedness -/

/-- R72: the n field is 4 bits. -/
theorem test_wf_refuses_n_16 : (Instr.draw 0 0 16).wf = false := by decide

theorem test_wf_accepts_n_15 : (Instr.draw 15 15 15).wf = true := by decide

/-! ## Decoding: each word is written from the pattern of R74 -/

theorem test_decode_control :
    decode 0b0000000011101110 = .ok .ret ∧ decode 0b0001101010111100 = .ok (.jump 0xABC) ∧
    decode 0b0010101010111100 = .ok (.call 0xABC) ∧ decode 0b0011001111110000 = .ok (.skipEqImm 3 0xF0) ∧
    decode 0b0100001111110000 = .ok (.skipNeImm 3 0xF0) ∧ decode 0b0101001000010000 = .ok (.skipEqReg 2 1) ∧
    decode 0b1001001000010000 = .ok (.skipNeReg 2 1) ∧ decode 0b1011101010111100 = .ok (.indexedJump 0xABC) := by
  decide

theorem test_decode_alu :
    decode 0b0110101000010010 = .ok (.loadImm 10 0x12) ∧ decode 0b0111101000010010 = .ok (.addImm 10 0x12) ∧
    decode 0b1000101010110000 = .ok (.move 10 11) ∧ decode 0b1000101010110001 = .ok (.orReg 10 11) ∧
    decode 0b1000101010110010 = .ok (.andReg 10 11) ∧ decode 0b1000101010110011 = .ok (.xorReg 10 11) ∧
    decode 0b1000101010110100 = .ok (.addReg 10 11) ∧ decode 0b1000101010110101 = .ok (.subReg 10 11) ∧
    decode 0b1000101010110110 = .ok (.shr 10 11) ∧ decode 0b1000101010110111 = .ok (.subnReg 10 11) ∧
    decode 0b1000101010111110 = .ok (.shl 10 11) ∧ decode 0b1100101000010010 = .ok (.rand 10 0x12) := by decide

theorem test_decode_index_memory :
    decode 0b1010101010111100 = .ok (.setIndex 0xABC) ∧ decode 0b1111010100011110 = .ok (.addIndex 5) ∧
    decode 0b1111010100101001 = .ok (.spriteAddr 5) ∧ decode 0b1111010100110011 = .ok (.bcd 5) ∧
    decode 0b1111010101010101 = .ok (.dumpRegs 5) ∧ decode 0b1111010101100101 = .ok (.loadRegs 5) := by decide

theorem test_decode_display_input_timers :
    decode 0b0000000011100000 = .ok .clearScreen ∧ decode 0b1101000100101111 = .ok (.draw 1 2 15) ∧
    decode 0b1110010110011110 = .ok (.skipKeyDown 5) ∧ decode 0b1110010110100001 = .ok (.skipKeyUp 5) ∧
    decode 0b1111010100001010 = .ok (.waitKey 5) ∧ decode 0b1111010100000111 = .ok (.loadDelay 5) ∧
    decode 0b1111010100010101 = .ok (.setDelay 5) ∧ decode 0b1111010100011000 = .ok (.setSound 5) := by decide

/-- V-HL2 to V-HL8: unknown words are refused by name. -/
theorem test_decode_unknown :
    decode 0x0123 = .error (.unknownInstruction 0x0123) ∧ decode 0x00E1 = .error (.unknownInstruction 0x00E1) ∧
    decode 0x5121 = .error (.unknownInstruction 0x5121) ∧ decode 0x9121 = .error (.unknownInstruction 0x9121) ∧
    decode 0x8128 = .error (.unknownInstruction 0x8128) ∧ decode 0xE1A2 = .error (.unknownInstruction 0xE1A2) ∧
    decode 0xF1FF = .error (.unknownInstruction 0xF1FF) := by decide

theorem test_encode : encode (.draw 1 2 15) = 0xD12F ∧ encode (.shl 10 11) = 0x8ABE ∧ encode (.waitKey 5) = 0xF50A := by
  decide

theorem test_decodeBytes_leaves_the_rest : decodeBytes [0x12, 0x34, 0x56] = .ok (.jump 0x234, [0x56]) := by decide

theorem test_decodeTableWord : decodeTableWord 16 0x81F6 = some (.shr 1 15) ∧ decodeTableWord 16 0x0123 = none := by
  decide

/-- R80, and P1's line "add-imm V1, FF". -/
theorem test_asm : (Instr.addImm 1 0xFF).asm = "add-imm V1, FF" ∧ (Instr.shr 1 15).asm = "shr V1" := by decide

/-- withFetchWord stores high byte first at the reset PC (20_memory.md R53). -/
theorem test_withFetchWord :
    let s := State.reset.withFetchWord 16 0x8124
    s.pc = 0x200 ∧ s.mem.read 0x200 = 0x81 ∧ s.mem.read 0x201 = 0x24 := by decide

/-! ## Control flow -/

/-- V-CF1. -/
theorem test_jump : view (run State.reset 0x1ABC) (·.pc) = some 0xABC := by decide

/-- V-CF4. -/
theorem test_call : view (run State.reset 0x2300) (fun t => (t.pc, t.sp, t.mem.read 0xEA2, t.mem.read 0xEA3)) =
    some (0x300, 0xEA2, 2, 2) := by decide

/-- V-CF6. -/
theorem test_call_176 : view (run { State.reset with sp := 0xFFE } 0x2300) (fun t => (t.halt, t.sp, t.pc)) =
    some (some (.memoryOutOfRange 0x1000), 0xFFE, 0x200) := by decide

/-- V-CF8. -/
theorem test_ret_wraps_sp : view (run { State.reset with sp := 0 } 0x00EE) (fun t => (t.pc, t.sp)) =
    some (0xF090, 0xFFFE) := by decide

/-- V-CF9. -/
theorem test_ret_halts : view (run { State.reset with sp := 0xFFFE } 0x00EE) (·.halt) =
    some (some (.memoryOutOfRange 0xFFFE)) := by decide

/-- V-CF10, V-CF11. -/
theorem test_skip_eq_imm : view (run { regs [(3, 0x10)] with pc := 0x300 } 0x3310) (·.pc) = some 0x304 ∧
    view (run { regs [(3, 0x10)] with pc := 0x300 } 0x3311) (·.pc) = some 0x302 := by decide

/-- V-CF12, V-CF13. -/
theorem test_skip_ne_imm : view (run { regs [(3, 0x10)] with pc := 0x300 } 0x4311) (·.pc) = some 0x304 ∧
    view (run { regs [(3, 0x10)] with pc := 0x300 } 0x4310) (·.pc) = some 0x302 := by decide

/-- V-CF14, V-CF15 (at the reset PC). -/
theorem test_skip_eq_reg : view (run (regs [(1, 0x44), (2, 0x44)]) 0x5120) (·.pc) = some 0x204 ∧
    view (run (regs [(1, 0x44), (2, 0x45)]) 0x5120) (·.pc) = some 0x202 := by decide

/-- V-CF17, V-CF18 (at the reset PC). -/
theorem test_skip_ne_reg : view (run (regs [(1, 0x44), (2, 0x45)]) 0x9120) (·.pc) = some 0x204 ∧
    view (run State.reset 0x9110) (·.pc) = some 0x202 := by decide

/-- V-CF19: a skip past the end of memory. -/
theorem test_skip_to_1000 : view (run { State.reset with pc := 0xFFC } 0x3000) (·.pc) = some 0x1000 := by decide

/-- V-CF21. -/
theorem test_indexed_jump : view (run (regs [(0, 0xFF)]) 0xBFFF) (·.pc) = some 0x10FE := by decide

/-! ## Register arithmetic and logic -/

/-- V-AL1. -/
theorem test_load_imm : view (run State.reset 0x6AFF) (fun t => (t.reg 10, t.pc)) = some (0xFF, 0x202) := by decide

/-- V-AL2. -/
theorem test_add_imm_wraps : view (run (regs [(1, 1), (15, 7)]) 0x71FF) (fun t => (t.reg 1, t.reg 15)) =
    some (0, 7) := by decide

/-- V-AL4. -/
theorem test_move : view (run (regs [(2, 0x33)]) 0x8120) (fun t => (t.reg 1, t.reg 2)) = some (0x33, 0x33) := by decide

/-- V-AL5. -/
theorem test_or : view (run (regs [(1, 0xF0), (2, 0x0C), (15, 3)]) 0x8121) (fun t => (t.reg 1, t.reg 15)) =
    some (0xFC, 3) := by decide

/-- V-AL6. -/
theorem test_and : view (run (regs [(1, 0xF0), (2, 0x3C)]) 0x8122) (·.reg 1) = some 0x30 := by decide

/-- V-AL7. -/
theorem test_xor : view (run (regs [(1, 0x5A)]) 0x8113) (·.reg 1) = some 0 := by decide

/-- S3. -/
theorem test_add_reg_carry : view (run (regs [(1, 0xFF), (2, 3)]) 0x8124) (fun t => (t.reg 1, t.reg VF)) =
    some (2, 1) := by decide

/-- V-AL9 and V-AL10: VF as the source, and as the destination. -/
theorem test_add_reg_vf : view (run (regs [(1, 0x10), (15, 1)]) 0x81F4) (fun t => (t.reg 1, t.reg VF)) =
      some (0x11, 0) ∧ view (run (regs [(15, 0xFF), (1, 3)]) 0x8F14) (·.reg VF) = some 1 := by decide

/-- V-AL12. -/
theorem test_sub_reg : view (run (regs [(1, 3), (2, 5)]) 0x8125) (fun t => (t.reg 1, t.reg VF)) =
    some (0xFE, 0) := by decide

/-- V-AL13: the comparison is strict. -/
theorem test_sub_reg_equal : view (run (regs [(1, 7), (2, 7)]) 0x8125) (fun t => (t.reg 1, t.reg VF)) =
    some (0, 0) := by decide

/-- V-AL15. -/
theorem test_subn_reg : view (run (regs [(1, 3), (2, 5)]) 0x8127) (fun t => (t.reg 1, t.reg VF)) =
    some (2, 1) := by decide

/-- V-AL19: the y field, here F, is not read. -/
theorem test_shr : view (run (regs [(1, 5), (15, 9)]) 0x81F6) (fun t => (t.reg 1, t.reg VF)) = some (2, 1) := by decide

/-- S5 and V-AL22. -/
theorem test_shl : view (run (regs [(1, 0x83)]) 0x810E) (fun t => (t.reg 1, t.reg VF)) = some (6, 1) ∧
    view (run (regs [(15, 0x81)]) 0x8F0E) (·.reg VF) = some 1 := by decide

/-- V-AL10, V-AL14, V-AL20, V-AL22, the column result_last: VF is left with the result. -/
theorem test_result_last : ∀ c, (State.reset.setRegFlagIn .resultLast VF 2 c).reg VF = 2 := by decide

/-- V-AL23. -/
theorem test_rand : view (stepWith 0xA5 (State.reset.withFetchWord 16 0xC30F)) (·.reg 3) = some 5 := by decide

/-- V-AL25: the result is 0 in every state, so for every random byte, the free one included. -/
theorem test_rand_mask_0 (s : State) : view (exec (.rand 3 0) s) (·.reg 3) = some 0 := by
  simp [view, exec, execRand]

/-! ## Index register and memory -/

/-- V-IM1. -/
theorem test_set_index : view (run State.reset 0xA123) (fun t => (t.i, t.pc)) = some (0x123, 0x202) := by decide

/-- V-IM2, V-IM3. -/
theorem test_add_index : view (run { regs [(2, 5)] with i := 0xFFE } 0xF21E) (·.i) = some 0x1003 ∧
    view (run { regs [(2, 2)] with i := 0xFFFF } 0xF21E) (·.i) = some 1 := by decide

/-- V-IM13, V-IM14. -/
theorem test_sprite_addr : view (run (regs [(0, 0x0A)]) 0xF029) (·.i) = some 0x32 ∧
    view (run (regs [(0, 0xFF)]) 0xF029) (·.i) = some 0x4FB := by decide

/-- V-IM4. -/
theorem test_bcd : view (run { regs [(0, 156)] with i := 0x300 } 0xF033)
    (fun t => (t.mem.read 0x300, t.mem.read 0x301, t.mem.read 0x302)) = some (1, 5, 6) := by decide

/-- V-IM7. -/
theorem test_bcd_halts : view (run { regs [(0, 0x7B)] with i := 0xFFE } 0xF033) (fun t => (t.halt, t.mem.read 0xFFE)) =
    some (some (.memoryOutOfRange 0x1000), 0) := by decide

/-- V-IM8. -/
theorem test_dump_regs : view (run { regs [(0, 1), (1, 2), (2, 3)] with i := 0x400 } 0xF255)
    (fun t => (t.mem.read 0x400, t.mem.read 0x402, t.mem.read 0x403, t.i)) = some (1, 3, 0, 0x400) := by decide

/-- V-IM10. -/
theorem test_dump_regs_halts : view (run { regs [(0, 1), (1, 2)] with i := 0xFFF } 0xF155)
    (fun t => (t.halt, t.mem.read 0xFFF)) = some (some (.memoryOutOfRange 0x1000), 0) := by decide

/-- V-IM11. -/
theorem test_load_regs : view (run State.reset 0xFF65) (fun t => (t.reg 0, t.reg 5, t.reg 15, t.i)) =
    some (0xF0, 0x20, 0xF0, 0) := by decide

/-- V-IM12. -/
theorem test_load_regs_halts : view (run { State.reset with i := 0xFFF } 0xF165) (fun t => (t.halt, t.reg 0)) =
    some (some (.memoryOutOfRange 0x1000), 0) := by decide

/-! ## Display -/

/-- S2. -/
theorem test_clear_screen : view (run (pixelOn State.reset 63 31) 0x00E0) (fun t => (t.pixel 63 31, t.pc)) =
    some (false, 0x202) := by decide

/-- V-DS6: clipped at the corner. -/
theorem test_draw_clips : view (run (bytesAt { regs [(0, 0x3C), (1, 0x1F)] with i := 0x300 } 0x300 [0xFF, 0x81]) 0xD012)
    (fun t => (onInRow t 31, t.reg VF)) = some ([60, 61, 62, 63], 0) := by decide

/-- V-DS5: collision. -/
theorem test_draw_collides : view (run (pixelOn (bytesAt { State.reset with i := 0x300 } 0x300 [0x80]) 0 0) 0xD011)
    (fun t => (t.pixel 0 0, t.reg VF)) = some (false, 1) := by decide

/-- V-DS4: the second row of glyph 0 at the column held in VF. -/
theorem test_draw_font : view (run (regs [(15, 3)]) 0xDF15) (fun t => (onInRow t 1, t.reg VF)) =
    some ([3, 6], 0) := by decide

/-- V-DS3. -/
theorem test_draw_halts : view (run { regs [(1, 0x28)] with i := 0xFFE } 0xD015) (·.halt) =
    some (some (.memoryOutOfRange 0x1000)) := by decide

/-! ## Keys -/

/-- V-IN3, V-IN4. -/
theorem test_skip_key_down : view (run ((regs [(2, 5)]).setKey 5 true) 0xE29E) (·.pc) = some 0x204 ∧
    view (run (regs [(2, 5)]) 0xE29E) (·.pc) = some 0x202 := by decide

/-- V-IN7. -/
theorem test_skip_key_down_halts : view (run (regs [(1, 0x10)]) 0xE19E) (·.halt) =
    some (some (.keyOutOfRange 0x10)) := by decide

/-- V-IN5, V-IN6. -/
theorem test_skip_key_up : view (run ((regs [(2, 5)]).setKey 5 true) 0xE2A1) (·.pc) = some 0x202 ∧
    view (run (regs [(2, 5)]) 0xE2A1) (·.pc) = some 0x204 := by decide

/-- V-IN8. -/
theorem test_skip_key_up_halts : view (run (regs [(1, 0xFF)]) 0xE1A1) (·.halt) =
    some (some (.keyOutOfRange 0xFF)) := by decide

/-- S7, its first step. -/
theorem test_wait_key : view (run State.reset 0xF30A) (fun t => (t.wait, t.pc, t.reg 3)) =
    some (some 3, 0x200, 0) := by decide

/-- S8, its PRESS. -/
theorem test_press_ends_wait : view ((HostOp.press 12).apply { State.reset with wait := some 7 })
    (fun t => (t.reg 7, t.pc, t.wait, t.key 12)) = some (12, 0x202, none, true) := by decide

/-- V-IN10. -/
theorem test_release : view ((HostOp.release 3).apply ({ State.reset with wait := some 1 }.setKey 3 true))
    (fun t => (t.key 3, t.wait)) = some (false, some 1) := by decide

/-- V-IN12. -/
theorem test_suspended_step : view (step { State.reset with wait := some 1, pc := 0xFFF }) (fun t => (t.halt, t.pc)) =
    some (none, 0xFFF) := by decide

/-! ## Timers -/

/-- V-TM1. -/
theorem test_load_delay : view (run { State.reset with dt := 0x3C } 0xF307) (fun t => (t.reg 3, t.dt)) =
    some (0x3C, 0x3C) := by decide

/-- V-TM2, its STEP. -/
theorem test_set_delay : view (run (regs [(0, 5)]) 0xF015) (fun t => (t.dt, t.st)) = some (5, 0) := by decide

/-- V-TM3, its STEP. -/
theorem test_set_sound : view (run (regs [(0, 2)]) 0xF018) (fun t => (t.st, t.dt)) = some (2, 0) := by decide

/-- V-TM4. -/
theorem test_tick : view (HostOp.tick.apply { State.reset with st := 1 }) (fun t => (t.dt, t.st)) =
    some (0, 0) := by decide

/-! ## Halts, LOAD and RESET -/

/-- V-HL1. -/
theorem test_empty_memory_halts : view (step State.reset) (·.halt) = some (some (.unknownInstruction 0)) := by decide

/-- V-HL9. -/
theorem test_fetch_out_of_range : view (step { State.reset with pc := 0xFFF }) (·.halt) =
    some (some (.fetchOutOfRange 0xFFF)) := by decide

/-- V-HL11, its TICK and PRESS. -/
theorem test_halted_is_left_alone :
    let s := { State.reset with halt := some (.unknownInstruction 0), dt := 3 }
    view (HostOp.tick.apply s) (·.dt) = some 3 ∧ view ((HostOp.press 2).apply s) (·.key 2) = some false := by decide

/-- V-HL12. -/
theorem test_reset : view (HostOp.reset.apply { regs [(3, 9)] with halt := some (.keyOutOfRange 0x10) }) id =
    some State.reset := by decide

/-- S10, its LOAD. -/
theorem test_load : view ((HostOp.load [0x00, 0xE0]).apply State.reset) (·.mem) = some [(0x201, 0xE0)] := by decide

/-- V-HL14. -/
theorem test_load_too_long (bytes : List Byte) (h : bytes.length = 3585) :
    view ((HostOp.load bytes).apply State.reset) (fun t => (t.halt, t.mem)) =
      some (some (.imageTooLong 3585), []) := by
  simp [view, HostOp.apply, loadOp, loadImage, maxImage, State.unlessHalted, State.reset, h]

/-- R310: the numeric codes and the info values. -/
theorem test_halt_codes : ((Halt.keyOutOfRange 0x10).code, (Halt.keyOutOfRange 0x10).info) = (4, 0x10) := by decide

/-- R101: the STATUS port. -/
theorem test_status : { State.reset with wait := some 3 }.status = .awaiting 3 := by decide

/-! ## Witnesses: the hypotheses of each obligation are met, clause by clause

Each holds a boundary value for each clause. -/

/-- A running state with the word `w` at its PC. -/
def at_ (pc : Word) (w : Nat) : State := { State.reset with pc := pc }.withFetchWord 16 w

/-- A halted state. -/
def haltedState : State := State.reset.raiseHalt (.unknownInstruction 0)

/-- A suspended state. -/
def suspended : State := at_ 0x200 0xF30A |>.setWait (some 3)

theorem witness_DecodeOfEncodeIsIdentity : (Instr.draw 15 15 15).wf = true ∧ (Instr.jump 0xFFF).wf = true := by decide

theorem witness_EncodeOfDecodeIsTheWord : decode 0xFF65 = .ok (.loadRegs 15) := by decide

theorem witness_DecoderIsTheOpcodeTable :
    decode 0xDFFF = .ok (.draw 15 15 15) ∧ (⟨"draw", 0xF000, 0xD000⟩ ∈ opcodeTable ∧
      OpcodeRow.matches ⟨"draw", 0xF000, 0xD000⟩ 0xDFFF = true) ∧ State.reset.running ∧ State.reset.fetchable ∧
    (0x0000 : Word).toNat = State.reset.numberAtPc ∧ ∀ r ∈ opcodeTable, r.matches 0x0000 = false := by decide

theorem witness_UnknownWordsAreTheListedOnes : (at_ 0xFFE 0x5001).running ∧ (at_ 0xFFE 0x5001).fetchable ∧
    (0x5001 : Word).toNat = (at_ 0xFFE 0x5001).numberAtPc ∧ decode 0x5001 = .error (.unknownInstruction 0x5001) ∧
    1 < 16 ∧ 1 ∉ [0x0, 0x5, 0x8, 0x9, 0xE, 0xF] := by decide

theorem witness_WriteChangesOnlyItsByte : 0xFFF < 0x1000 ∧ (0 : Nat) ≠ 0xFFF := by decide

/-- The last access that fits and the first that does not, at both ends of its range. -/
theorem witness_AccessReportsLowestBadAddress : ([1, 2] : List Byte) ≠ [] ∧ 0xFFE + [1, 2].length ≤ 0x1000 ∧
    0x1000 < 0xFFF + [1, 2].length ∧ 0x1000 < 0x1000 + [1, 2].length := by decide

theorem witness_WordsAreBigEndian : 0xFFE + 1 < 0x1000 := by decide

theorem witness_EqualReadsMeanEqualMemory :
    Memory.wf [(0x000, 1), (0xFFF, 5)] ∧ ∀ a, a < 0x1000 → Memory.read [(0xFFF, 5)] a = Memory.read [(0xFFF, 5)] a :=
  ⟨by decide, fun _ _ => rfl⟩

theorem witness_StoredCodeIsFetchedNext :
    let s := { at_ 0xFFC 0xF155 with i := 0xFFE }.setReg 0 0x12 |>.setReg 1 0x34
    s.running ∧ fetchInstr s = .ok (.dumpRegs 1) ∧ s.i.toNat = s.pc.toNat + 2 ∧ s.pc.toNat + 3 ≤ 0xFFF ∧
    decode (u16 ((s.reg 0).toNat * 256 + (s.reg 1).toNat)) = .ok (.jump 0x234) := by decide

theorem witness_StepExecutesTheDecodedInstruction :
    let s := at_ 0xFFE 0x6A12
    s.running ∧ s.fetchable ∧
    decodeBytes (s.mem.read s.pc.toNat :: s.mem.read (s.pc.toNat + 1) :: []) = .ok (.loadImm 10 0x12, []) := by decide

theorem witness_StepFollowsItsPseudocode :
    haltedState.halt ≠ none ∧ (suspended.halt = none ∧ suspended.wait ≠ none) ∧
    ({ State.reset with pc := 0xFFF }.running ∧ { State.reset with pc := 0xFFF }.pc.toNat + 1 > 0xFFF) ∧
    ((at_ 0xFFE 0x5001).running ∧ (at_ 0xFFE 0x5001).pc.toNat + 1 ≤ 0xFFF ∧
      decode 0x5001 = .error (.unknownInstruction 0x5001)) ∧ decode 0x00E0 = .ok .clearScreen := by decide

theorem witness_PlacedWordRunsNext : decode 0x2FFF = .ok (.call 0xFFF) := by decide

theorem witness_OnlyRandReadsTheRandomByte :
    (at_ 0x200 0x6A12).running ∧ fetchInstr (at_ 0x200 0x6A12) = .ok (.loadImm 10 0x12) := by decide

/-- One witness for the wait that goes on, one for each way it ends. -/
theorem witness_SuspensionEndsOnlyAtPressOrReset : suspended.halt = none ∧ suspended.wait = some 3 ∧
    view (HostOp.tick.apply suspended) (·.wait) = some (some 3) ∧
    view ((HostOp.press 15).apply suspended) (·.wait) = some none ∧
    view (HostOp.reset.apply suspended) (·.wait) = some none ∧ ([0xFF] : List Byte).length ≤ 0xE00 := by decide

theorem witness_HaltKeepsThePreStateAndSticks :
    (State.reset.halt = none ∧ view ((HostOp.step 0).apply State.reset) (·.halt) = some (some (.unknownInstruction 0))) ∧
    (view (step { State.reset with pc := 0xFFF }) (·.halt) = some (some (.fetchOutOfRange 0xFFF))) ∧
    (haltedState.halt ≠ none ∧ HostOp.tick ≠ .reset) := by decide

theorem witness_InstructionsHaltOnlyAsListed :
    view (exec (.call 0) { State.reset with sp := 0xFFE }) (·.halt) = some (some (.memoryOutOfRange 0x1000)) ∧
    view (exec (.skipKeyUp 1) (regs [(1, 16)])) (·.halt) = some (some (.keyOutOfRange 16)) ∧
    State.reset.halt = none := by decide

theorem witness_SelfJumpIsAFixedPoint :
    let s := at_ 0xFFE 0x1FFE
    s.running ∧ s.pc.toNat = (0xFFE : Addr12).toNat ∧ s.pc.toNat ≤ 0xFFE ∧
    s.numberAtPc = 0x1000 + (0xFFE : Addr12).toNat := by decide

/-- SP at the last address that fits, at the first that does not, and wholly outside memory. -/
theorem witness_ReturnPopsTheStackEntry :
    { State.reset with sp := 0xFFE }.sp.toNat ≤ 0xFFE ∧ 0xFFE < { State.reset with sp := 0xFFF }.sp.toNat ∧
    0xFFE < { State.reset with sp := 0x1000 }.sp.toNat := by decide

/-- The slot at 0xFFE, 0xFFF and 0x1000. -/
theorem witness_CallPushesTheReturnAddress :
    { State.reset with sp := 0xFFC }.pushSlot.toNat ≤ 0xFFE ∧ 0xFFE < { State.reset with sp := 0xFFD }.pushSlot.toNat ∧
    0x1000 ≤ { State.reset with sp := 0xFFE }.pushSlot.toNat := by decide

/-- SP = 0xFFFE: the slot is 0x000, by wrap, and fits. -/
theorem witness_CallThenReturnComesBack : { State.reset with sp := 0xFFFE }.pushSlot.toNat ≤ 0xFFE := by decide

theorem witness_StackHolds175Calls : State.reset.sp = 0xEA0 ∧ State.reset.halt = none ∧ 175 ≤ 175 := by decide

theorem witness_SkipOnRegisters : (0 < 1 ∧ 1 < 16) ∧ 0 < 15 ∧ 15 < 16 := by decide

theorem witness_ComputedPcStaysBelow10FF :
    let s := (at_ 0x200 0xBFFF).setReg 0 0xFF
    s.running ∧ fetchInstr s = .ok (.indexedJump 0xFFF) ∧
    view (step s) (fun t => (t.halt, t.pc)) = some (none, 0x10FE) := by decide

theorem witness_AddRegSumAndCarry : (0 : RegIdx) ≠ VF ∧ (14 : RegIdx) ≠ VF := by decide

theorem witness_SubtractionsAndStrictFlag : (0 : RegIdx) ≠ VF ∧ (14 : RegIdx) ≠ VF := by decide

theorem witness_ShiftsAndTheBitShiftedOut : (0 : RegIdx) ≠ VF ∧ (14 : RegIdx) ≠ VF := by decide

/-- A STEP about to execute rand V3, FF, at the last address that can be fetched from. -/
theorem witness_RandMasksTheRandomByte :
    let s := at_ 0xFFE 0xC3FF
    s.running ∧ s.fetchable ∧ s.numberAtPc = 0xC000 + (3 : RegIdx).val * 256 + (0xFF : Byte).toNat := by decide

/-- A byte handed over, and none. -/
theorem witness_RandomBytesAreTakenOnce :
    { State.reset with randIn := [0xA5, 1] }.randIn = 0xA5 :: [1] ∧ State.reset.randIn = [] := by decide

theorem witness_RegistersWrittenOnlyAsNamed :
    (Instr.loadRegs 14).namesDest 15 = false ∧ ((15 : RegIdx) = VF → (Instr.loadRegs 14).writesFlag = false) ∧
    view (exec (.loadRegs 14) State.reset) (·.reg 15) = some 0 ∧ (Instr.addReg 1 2).writesFlag = true ∧
    view (exec (.addReg 1 2) State.reset) (·.halt) = some none := by decide

theorem witness_PartsWrittenOnlyAsListed :
    Part.memory ∉ (Instr.loadRegs 3).writes ∧ Part.keys ∉ (Instr.waitKey 3).writes ∧
    view (exec (.loadRegs 3) State.reset) (·.mem) = some [] := by decide

theorem witness_SoundTimerIsNeverRead : ∃ t, step (at_ 0x200 0xF118) = .next t := ⟨_, rfl⟩

/-- I at 0xFFD fits; 0xFFE, 0xFFF and 0x1000 do not. -/
theorem witness_BcdStoresThreeDigits :
    { State.reset with i := 0xFFD }.base + 2 ≤ 0xFFF ∧ 0xFFF < { State.reset with i := 0xFFE }.base + 2 ∧
    0xFFF < { State.reset with i := 0xFFF }.base + 2 ∧ 0x1000 ≤ { State.reset with i := 0x1000 }.base := by decide

/-- x at 0 and 15; the last I that fits and the first that does not. -/
theorem witness_DumpRegsStoresV0ToVx :
    { State.reset with i := 0xFFF }.base + (0 : RegIdx).val ≤ 0xFFF ∧
    { State.reset with i := 0xFF0 }.base + (15 : RegIdx).val ≤ 0xFFF ∧
    0xFFF < { State.reset with i := 0xFF1 }.base + (15 : RegIdx).val ∧
    0xFFF < { State.reset with i := 0x1000 }.base + (0 : RegIdx).val ∧ (0 : RegIdx) ≤ 0 := by decide

theorem witness_LoadRegsFillsV0ToVx :
    { State.reset with i := 0xFFF }.i.toNat + (0 : RegIdx).val ≤ 0xFFF ∧
    { State.reset with i := 0xFF0 }.i.toNat + (15 : RegIdx).val ≤ 0xFFF ∧
    0xFFF < { State.reset with i := 0xFF1 }.i.toNat + (15 : RegIdx).val ∧
    0xFFF < { State.reset with i := 0x1000 }.i.toNat + (0 : RegIdx).val ∧ (0 : RegIdx) ≤ 0 := by decide

theorem witness_LoadRegsUndoesDumpRegs :
    { State.reset with i := 0xFF1 }.i.toNat + (14 : RegIdx).val ≤ 0xFFF ∧ (14 : RegIdx) ≤ 14 ∧ (14 : RegIdx) < 15 := by
  decide

/-- The pixel (7, 1) is covered by a sprite at (0, 0) whose second byte is 1, and (0, 0) is not. -/
theorem witness_SpriteFlipsThePixelsItCovers :
    spriteCovers 0 0 [0x00, 0x01] 7 1 ∧ ¬ spriteCovers 0 0 [0x00, 0x01] 0 0 := by
  refine ⟨⟨1, 7, by decide⟩, ?_⟩
  rintro ⟨i, b, -, hi, hb, h⟩
  have h0 : i = 0 := by simpa using hi.symm
  have h1 : b = 0 := by simpa using hb.symm
  subst h0 h1
  exact absurd h (by decide)

/-- No row, the last row that fits, the first that does not; a covered pixel that is on (collision), and a blank
display (none). -/
theorem witness_DrawXorsTheSprite :
    (15 < 16 ∧ ((0 : Nat) = 0 ∨ State.reset.i.toNat + 0 ≤ 0x1000) ∧ { State.reset with i := 0xFF1 }.i.toNat + 15 ≤ 0x1000 ∧
      0 < 15 ∧ 0x1000 < { State.reset with i := 0xFF2 }.i.toNat + 15 ∧ 0x1000 ≤ { State.reset with i := 0x1000 }.i.toNat) ∧
    (let s := pixelOn State.reset 0 0
     spriteCovers (s.reg 0).toNat (s.reg 1).toNat (s.spriteBytes 1) 0 0 ∧ s.pixel 0 0 = true) ∧
    ¬ ∃ col row, spriteCovers (State.reset.reg 0).toNat (State.reset.reg 1).toNat (State.reset.spriteBytes 1) col row ∧
      State.reset.pixel col row = true := by
  refine ⟨by decide, ⟨⟨0, 0, by decide⟩, by decide⟩, ?_⟩
  rintro ⟨col, row, -, h⟩
  have hb : State.reset.pixel col row = false := by simp [State.pixel, State.reset, Display.get, blankDisplay]
  rw [hb] at h
  exact absurd h (by decide)

theorem witness_PressSetsTheKeyAndEndsTheWait : haltedState.halt ≠ none ∧
    (State.reset.halt = none ∧ State.reset.wait = none) ∧ (suspended.halt = none ∧ suspended.wait = some 3) ∧
    (0 : KeyCode) ≠ 15 := by decide

theorem witness_ReleaseOnlyClearsTheKey : haltedState.halt ≠ none ∧ State.reset.halt = none ∧ (0 : KeyCode) ≠ 15 := by
  decide

theorem witness_KeyWaitStatesChangeAsTabled :
    ((at_ 0x200 0xF30A).status = .running ∧ fetchInstr (at_ 0x200 0xF30A) = .ok (.waitKey 3)) ∧
    ((at_ 0x200 0x00E0).status = .running ∧ fetchInstr (at_ 0x200 0x00E0) = .ok .clearScreen) ∧
    suspended.status = .awaiting 3 ∧ haltedState.status = .halted (.unknownInstruction 0) := by decide

/-- The last key and the first value past it. -/
theorem witness_SkipOnKeyReadsTheLatch :
    ((regs [(1, 15)]).reg 1).toNat < 16 ∧ 15 < ((regs [(1, 16)]).reg 1).toNat := by decide

theorem witness_TickCountsBothTimersDown : haltedState.halt ≠ none ∧ State.reset.halt = none ∧
    State.reset.dt.toNat = 0 ∧ { State.reset with st := 1 }.st.toNat > 0 := by decide

theorem witness_ResetGivesTheInitialState : (0x4F < 0x50) ∧ 0x50 ≤ 0x50 ∧ 0xFFF < 0x1000 := by decide

/-- The longest image, the first too long, and the empty one. -/
theorem witness_LoadCopiesTheImage : haltedState.halt ≠ none ∧ State.reset.halt = none ∧
    (List.replicate 0xE00 (0xAA : Byte)).length ≤ 0xE00 ∧ 0xE00 < (List.replicate 0xE01 (0xAA : Byte)).length ∧
    ([] : List Byte).length ≤ 0xE00 := by
  refine ⟨by decide, by decide, ?_, ?_, by decide⟩
  · rw [List.length_replicate]
  · rw [List.length_replicate]
    decide

/-- A running state, a suspended one, and one halted for each reason, all meeting the invariant. -/
theorem witness_StepKeepsTheInvariant : Inv State.reset ∧ Inv suspended ∧ Inv haltedState ∧
    Inv ({ State.reset with pc := 0xFFF }.raiseHalt (.fetchOutOfRange 0xFFF)) ∧
    Inv ({ at_ 0x200 0x2300 with sp := 0xFFE }.raiseHalt (.memoryOutOfRange 0x1000)) ∧
    Inv (((at_ 0x200 0xE19E).setReg 1 16).raiseHalt (.keyOutOfRange 16)) ∧
    Inv (suspended.raiseHalt (.imageTooLong 0xE01)) := by
  refine ⟨⟨by decide, by decide, by decide, ?_⟩, ⟨by decide, by decide, by decide, ?_⟩,
    ⟨by decide, by decide, by decide, ?_⟩, ⟨by decide, by decide, by decide, ?_⟩,
    ⟨by decide, by decide, by decide, ?_⟩, ⟨by decide, by decide, by decide, ?_⟩,
    ⟨by decide, by decide, by decide, ?_⟩⟩ <;> intro h hh <;> cases hh
  · exact ⟨by decide, by decide, by decide, by decide⟩
  · exact ⟨by decide, by decide, by decide⟩
  · exact ⟨by decide, by decide, .call 0x300, by decide, by decide, rfl⟩
  · exact ⟨by decide, by decide, 1, .inl (by decide), by decide⟩
  · show maxImage < 0xE01
    decide

theorem witness_EveryScheduleKeepsTheInvariant :
    ∃ t, runOps [.load [0x00, 0xE0], .step 0, .tick, .press 3, .release 3, .reset] State.reset = .next t := ⟨_, rfl⟩

end Sys2Proof.Tests
end

/-! PROOFS. The family of 10_state.md: what any instruction may change (R21 to R31), where PC may go (R23), and the
invariant of R34 and R313 along every schedule. The one case split over the instruction set is `exec_ends`; the
obligations are read off it. -/

namespace Sys2Proof

/-! ### The registers an instruction may write -/

/-- The named destinations, and VF for the six flag writers (10_state.md R21, R22). -/
def Instr.destRegs (i : Instr) : List RegIdx :=
  (List.finRange 16).filter fun j => i.namesDest j || (j == VF && i.writesFlag)

@[simp] theorem Instr.mem_destRegs {i : Instr} {j : RegIdx} :
    j ∈ i.destRegs ↔ i.namesDest j = true ∨ (j = VF ∧ i.writesFlag = true) := by
  simp [Instr.destRegs]

theorem Instr.eq_waitKey_of_writes_wait {i : Instr} (h : .wait ∈ i.writes) : ∃ x, i = .waitKey x := by
  cases i <;> simp [Instr.writes] at h ⊢

/-! ### A decoder error is UNKNOWN with the very word (30_encoding.md R75) -/

theorem decodeFormat0_error {w : Word} {e : DecodeError} (h : decodeFormat0 w = .error e) :
    e = .unknownInstruction w := by
  unfold decodeFormat0 at h
  split at h <;> cases h
  rfl

theorem decodeAlu_error {w : Word} {e : DecodeError} (h : decodeAlu w = .error e) : e = .unknownInstruction w := by
  unfold decodeAlu at h
  split at h <;> cases h
  rfl

theorem decodeKey_error {w : Word} {e : DecodeError} (h : decodeKey w = .error e) : e = .unknownInstruction w := by
  unfold decodeKey at h
  split at h <;> cases h
  rfl

theorem decodeMisc_error {w : Word} {e : DecodeError} (h : decodeMisc w = .error e) : e = .unknownInstruction w := by
  unfold decodeMisc at h
  split at h <;> cases h
  rfl

theorem decode_error {w : Word} {e : DecodeError} (h : decode w = .error e) : e = .unknownInstruction w := by
  unfold decode at h
  split at h
  case h_1 => exact decodeFormat0_error h
  case h_9 => exact decodeAlu_error h
  case h_15 => exact decodeKey_error h
  case h_16 => exact decodeMisc_error h
  case h_6 | h_10 =>
    split at h <;> cases h
    rfl
  case h_17 =>
    cases h
    rfl
  all_goals cases h

end Sys2Proof

namespace Sys2Proof.Machine

/-! ### The checked accesses: their errors, and what their results keep -/

theorem eq_memoryOutOfRange_of_readBytes {m : Memory} {a n : Nat} {e : Halt} (h : readBytes m a n = .error e) :
    ∃ a', memSize ≤ a' ∧ e = .memoryOutOfRange a' := by
  rcases readBytes_cases m a n with ⟨bs, hok, -⟩ | ⟨a', ha, herr⟩
  · simp [hok] at h
  · exact ⟨a', ha, by simpa [herr, eq_comm] using h⟩

theorem eq_memoryOutOfRange_of_writeBytes {m : Memory} {a : Nat} {bytes : List Byte} {e : Halt}
    (h : writeBytes m a bytes = .error e) : ∃ a', memSize ≤ a' ∧ e = .memoryOutOfRange a' := by
  rcases writeBytes_cases m a bytes with ⟨m', hok, -⟩ | ⟨a', ha, herr⟩
  · simp [hok] at h
  · exact ⟨a', ha, by simpa [herr, eq_comm] using h⟩

theorem eq_memoryOutOfRange_of_readWord {m : Memory} {a : Nat} {e : Halt} (h : readWord m a = .error e) :
    ∃ a', memSize ≤ a' ∧ e = .memoryOutOfRange a' := by
  by_cases ha : a + 1 < memSize
  · simp [readWord_ok m ha] at h
  · rw [readWord_error m (by omega)] at h
    exact ⟨max a memSize, by omega, by simpa [eq_comm] using h⟩

theorem eq_keyOutOfRange_of_keyOperand {b : Byte} {e : Halt} (h : keyOperand b = .error e) :
    15 < b.toNat ∧ e = .keyOutOfRange b := by
  by_cases hb : b.toNat < 16
  · simp [keyOperand_ok hb] at h
  · rw [keyOperand_error (by omega)] at h
    exact ⟨by omega, by simpa [eq_comm] using h⟩

theorem length_of_readBytes {m : Memory} {a n : Nat} {bytes : List Byte} (h : readBytes m a n = .ok bytes) :
    bytes.length = n := by
  rcases readBytes_cases m a n with ⟨bs, hok, hlen⟩ | ⟨a', -, herr⟩
  · simp_all
  · simp [herr] at h

theorem wf_of_writeBytes {m m' : Memory} {a : Nat} {bytes : List Byte} (h : writeBytes m a bytes = .ok m')
    (hm : m.wf) : m'.wf := by
  rcases writeBytes_cases m a bytes with ⟨m₁, hok, hwf⟩ | ⟨a', -, herr⟩
  · obtain rfl : m₁ = m' := by simpa [hok] using h
    exact hwf hm
  · simp [herr] at h

theorem flagByte_eq (c : Bool) : flagByte c = 0 ∨ flagByte c = 1 := by cases c <;> decide

/-! ### How an instruction ends -/

/-- The halts that an instruction can raise, each with the instructions it belongs to (60_exceptions.md R310). -/
inductive Raises (i : Instr) (s : State) : Halt → Prop
  | memory {a : Nat} (hi : i.touchesMemory = true) (ha : memSize ≤ a) : Raises i s (.memoryOutOfRange a)
  | key {x : RegIdx} (hi : i = .skipKeyDown x ∨ i = .skipKeyUp x) (hv : 15 < (s.reg x).toNat) :
    Raises i s (.keyOutOfRange (s.reg x))

/-- The program counters an instruction other than return can leave: its own place (wait-key), the next place, the
skip's, and the targets of the two jumps and of call (10_state.md R23). -/
inductive PcFollows (s : State) : Word → Prop
  | stay : PcFollows s s.pc
  | next : PcFollows s (s.pc + 2)
  | skip : PcFollows s (s.pc + 4)
  | target (nnn : Addr12) : PcFollows s (zextAddr nnn)
  | indexed (nnn : Addr12) (b : Byte) : PcFollows s (zextAddr nnn + zextByte b)

/-- What is true of an instruction that does not halt, begun in `s` and ended in `t`. -/
structure Completes (i : Instr) (s t : State) : Prop where
  frame : Frame i.destRegs i.writes s t
  pc : i ≠ .ret → PcFollows s t.pc
  halt : t.halt = s.halt := by rfl
  mem_wf : s.mem.wf → t.mem.wf := by exact id
  sp_parity : t.sp.toNat % 2 = s.sp.toNat % 2 := by rfl
  flag : i.writesFlag = true → t.reg VF = 0 ∨ t.reg VF = 1 := by exact nofun

/-- An instruction begun in `s` ends in `t`: halted in its pre-state, or complete (40_engine.md R107). -/
def Ends (i : Instr) (s t : State) : Prop := (∃ e, Raises i s e ∧ t = s.raiseHalt e) ∨ Completes i s t

/-- `PC + 2` or `PC + 4`, whatever the condition. -/
theorem pcFollows_skipIf (s : State) (c : Bool) : PcFollows s (s.skipIf c).pc := by
  cases c
  · exact .next
  · exact .skip

section
variable {i : Instr} {s : State} {x : RegIdx}

theorem completes_setReg (b : Byte) (hx : i.namesDest x = true := by exact decide_eq_true rfl)
    (hf : i.writesFlag = false := by rfl) : Completes i s (s.setReg x b).advance where
  frame := ((Frame.refl _ _ s).setReg (by simp [hx]) b).advance
  pc _ := .next
  flag h := by simp [hf] at h

theorem completes_setRegFlag (b : Byte) (c : Bool) (hx : i.namesDest x = true := by exact decide_eq_true rfl)
    (hf : i.writesFlag = true := by rfl) : Completes i s (s.setRegFlag x b c).advance where
  frame := ((Frame.refl _ _ s).setRegFlag (by simp [hx]) (by simp [hf]) b c).advance
  pc _ := .next
  flag _ := by simpa [State.reg_setRegFlag] using flagByte_eq c

theorem completes_skipIf (c : Bool) (hf : i.writesFlag = false := by rfl) : Completes i s (s.skipIf c) where
  frame := (Frame.refl _ _ s).setPc _
  pc _ := pcFollows_skipIf s c
  flag h := by simp [hf] at h

theorem completes_setIndex (a : Word) (hp : .index ∈ i.writes := by exact .head _)
    (hf : i.writesFlag = false := by rfl) : Completes i s (s.setIndex a).advance where
  frame := ((Frame.refl _ _ s).setIndex hp a).advance
  pc _ := .next
  flag h := by simp [hf] at h

theorem completes_setMem {m : Memory} (hm : s.mem.wf → m.wf) (hp : .memory ∈ i.writes := by exact .head _)
    (hf : i.writesFlag = false := by rfl) : Completes i s (s.setMem m).advance where
  frame := ((Frame.refl _ _ s).setMem hp m).advance
  pc _ := .next
  mem_wf := hm
  flag h := by simp [hf] at h

/-- A load of the first registers completes: registers above `x` keep their values (43_index_memory.md R205). -/
theorem completes_loadRegs {bytes : List Byte} (hlen : bytes.length = x.val + 1) :
    Completes (.loadRegs x) s (s.setRegs (fillRegs s.v 0 bytes)).advance where
  frame := by
    refine ((Frame.refl _ _ s).setRegs _ fun j hj => ?_).advance
    have hxj : x.val < j.val := by simpa [Instr.namesDest, Instr.writesFlag] using hj
    rw [Fin.getElem_fin, fillRegs_getElem, dif_neg (by omega)]
    rfl
  pc _ := .next

/-- An instruction that ends with a commit ends well when its errors are those it may raise and its results complete. -/
theorem ends_commit {α : Type} {r : Except Halt α} {k : α → State} (herr : ∀ e, r = .error e → Raises i s e)
    (hok : ∀ a, r = .ok a → Completes i s (k a)) : Ends i s (s.commit r k) := by
  cases r with
  | error e => exact .inl ⟨e, herr e rfl, rfl⟩
  | ok a => exact .inr (hok a rfl)

theorem raises_memory (hi : i.touchesMemory = true) {e : Halt} (h : ∃ a, memSize ≤ a ∧ e = .memoryOutOfRange a) :
    Raises i s e := by
  obtain ⟨a, ha, rfl⟩ := h
  exact .memory hi ha

theorem raises_key (hi : i = .skipKeyDown x ∨ i = .skipKeyUp x) {e : Halt} (h : keyOperand (s.reg x) = .error e) :
    Raises i s e := by
  obtain ⟨hv, rfl⟩ := eq_keyOutOfRange_of_keyOperand h
  exact .key hi hv

end

/-- Every instruction, in every state, answers a next state, in which it has halted or completed. -/
theorem exec_ends (i : Instr) (s : State) : ∃ t, exec i s = .next t ∧ Ends i s t := by
  cases i with
  | clearScreen =>
    exact ⟨_, rfl, .inr { frame := ((Frame.refl _ _ s).setDisplay (.head _) _).advance, pc := fun _ => .next }⟩
  | ret =>
    refine ⟨_, rfl, ends_commit (fun _ h => raises_memory rfl (eq_memoryOutOfRange_of_readWord h)) fun w _ => ?_⟩
    exact {
      frame := ((Frame.refl _ _ s).setPc w).setSp (.head _) _
      pc := fun h => absurd rfl h
      sp_parity := by simp only [State.setSp_sp]; bv_omega }
  | jump nnn => exact ⟨_, rfl, .inr { frame := (Frame.refl _ _ s).setPc _, pc := fun _ => .target nnn }⟩
  | call nnn =>
    refine ⟨_, rfl, ends_commit (fun _ h => raises_memory rfl (eq_memoryOutOfRange_of_writeBytes h)) fun m hm => ?_⟩
    exact {
      frame := (((Frame.refl _ _ s).setMem (.head _) m).setSp (.tail _ (.head _)) _).setPc _
      pc := fun _ => .target nnn
      mem_wf := wf_of_writeBytes hm
      sp_parity := by simp only [State.setPc_sp, State.setSp_sp, State.pushSlot]; bv_omega }
  | skipEqImm x kk => exact ⟨_, rfl, .inr (completes_skipIf _)⟩
  | skipNeImm x kk => exact ⟨_, rfl, .inr (completes_skipIf _)⟩
  | skipEqReg x y => exact ⟨_, rfl, .inr (completes_skipIf _)⟩
  | skipNeReg x y => exact ⟨_, rfl, .inr (completes_skipIf _)⟩
  | loadImm x kk => exact ⟨_, rfl, .inr (completes_setReg _)⟩
  | addImm x kk => exact ⟨_, rfl, .inr (completes_setReg _)⟩
  | move x y => exact ⟨_, rfl, .inr (completes_setReg _)⟩
  | orReg x y => exact ⟨_, rfl, .inr (completes_setReg _)⟩
  | andReg x y => exact ⟨_, rfl, .inr (completes_setReg _)⟩
  | xorReg x y => exact ⟨_, rfl, .inr (completes_setReg _)⟩
  | addReg x y => exact ⟨_, rfl, .inr (completes_setRegFlag _ _)⟩
  | subReg x y => exact ⟨_, rfl, .inr (completes_setRegFlag _ _)⟩
  | subnReg x y => exact ⟨_, rfl, .inr (completes_setRegFlag _ _)⟩
  | shr x y => exact ⟨_, rfl, .inr (completes_setRegFlag _ _)⟩
  | shl x y => exact ⟨_, rfl, .inr (completes_setRegFlag _ _)⟩
  | setIndex nnn => exact ⟨_, rfl, .inr (completes_setIndex _)⟩
  | addIndex x => exact ⟨_, rfl, .inr (completes_setIndex _)⟩
  | spriteAddr x => exact ⟨_, rfl, .inr (completes_setIndex _)⟩
  | indexedJump nnn => exact ⟨_, rfl, .inr { frame := (Frame.refl _ _ s).setPc _, pc := fun _ => .indexed nnn _ }⟩
  | rand x kk =>
    exact ⟨_, rfl, .inr {
      frame := (((Frame.refl _ _ s).drawn (.head _)).setReg (by simp [Instr.namesDest]) _).advance
      pc := fun _ => by simpa using PcFollows.next
      halt := by simp
      mem_wf := by simp
      sp_parity := by simp }⟩
  | draw x y n =>
    refine ⟨_, rfl, ends_commit (fun _ h => raises_memory rfl (eq_memoryOutOfRange_of_readBytes h)) fun _ _ => ?_⟩
    exact {
      frame := (((Frame.refl _ _ s).setDisplay (.head _) _).setReg (by simp [Instr.writesFlag]) _).advance
      pc := fun _ => .next
      flag := fun _ => by simpa using flagByte_eq _ }
  | skipKeyDown x =>
    exact ⟨_, rfl, ends_commit (fun _ h => raises_key (.inl rfl) h) fun _ _ => completes_skipIf _⟩
  | skipKeyUp x =>
    exact ⟨_, rfl, ends_commit (fun _ h => raises_key (.inr rfl) h) fun _ _ => completes_skipIf _⟩
  | loadDelay x => exact ⟨_, rfl, .inr (completes_setReg _)⟩
  | waitKey x => exact ⟨_, rfl, .inr { frame := (Frame.refl _ _ s).setWait (.head _) _, pc := fun _ => .stay }⟩
  | setDelay x =>
    exact ⟨_, rfl, .inr { frame := ((Frame.refl _ _ s).setDt (.head _) _).advance, pc := fun _ => .next }⟩
  | setSound x =>
    exact ⟨_, rfl, .inr { frame := ((Frame.refl _ _ s).setSt (.head _) _).advance, pc := fun _ => .next }⟩
  | bcd x =>
    exact ⟨_, rfl, ends_commit (fun _ h => raises_memory rfl (eq_memoryOutOfRange_of_writeBytes h))
      fun _ hm => completes_setMem (wf_of_writeBytes hm)⟩
  | dumpRegs x =>
    exact ⟨_, rfl, ends_commit (fun _ h => raises_memory rfl (eq_memoryOutOfRange_of_writeBytes h))
      fun _ hm => completes_setMem (wf_of_writeBytes hm)⟩
  | loadRegs x =>
    exact ⟨_, rfl, ends_commit (fun _ h => raises_memory rfl (eq_memoryOutOfRange_of_readBytes h))
      fun _ h => completes_loadRegs (length_of_readBytes h)⟩

/-- The inversion of `exec`. -/
theorem ends_of_exec {i : Instr} {s t : State} (h : exec i s = .next t) : Ends i s t := by
  obtain ⟨t', ht', hends⟩ := exec_ends i s
  obtain rfl : t' = t := by simpa [ht'] using h
  exact hends

theorem Raises.halt_mem_writes {i : Instr} {s : State} {e : Halt} (h : Raises i s e) : .halt ∈ i.writes := by
  cases h with
  | memory hi => cases i <;> simp [Instr.touchesMemory, Instr.writes] at hi ⊢
  | key hi => rcases hi with rfl | rfl <;> exact .head _

/-- The frame of every instruction, halted or complete (10_state.md R21 to R31). -/
theorem frame_of_exec {i : Instr} {s t : State} (h : exec i s = .next t) : Frame i.destRegs i.writes s t := by
  rcases ends_of_exec h with ⟨e, he, rfl⟩ | hc
  · exact (Frame.refl _ _ s).raiseHalt he.halt_mem_writes e
  · exact hc.frame

/-- Settles O37: the registers by the frame of every instruction, VF by the flag of the completed one. -/
theorem registersWrittenOnlyAsNamed : Obligations.RegistersWrittenOnlyAsNamed := by
  refine ⟨fun i s t j h hdest hflag => ?_, fun i s t h hflag hhalt => ?_⟩
  · exact (frame_of_exec h).1 j (by simpa [hdest] using hflag)
  · rcases ends_of_exec h with ⟨e, -, rfl⟩ | hc
    · cases hhalt
    · exact hc.flag hflag

/-- Settles O38: the parts of the state in the frame of every instruction. -/
theorem partsWrittenOnlyAsListed : Obligations.PartsWrittenOnlyAsListed :=
  fun _ _ _ p h hp => (frame_of_exec h).2 p hp

/-! ### Where PC may go (10_state.md R23) -/

theorem PcFollows.toNat_le {s : State} {a : Word} (h : PcFollows s a) (hs : s.fetchable) : a.toNat ≤ 0x10FE := by
  cases h with
  | stay => omega
  | next => bv_omega
  | skip => bv_omega
  | target nnn =>
    rw [zextAddr_eq, u16_toNat]
    omega
  | indexed nnn b =>
    rw [zextAddr_eq, zextByte_eq, BitVec.toNat_add, u16_toNat, u16_toNat]
    omega

/-- The word fetched is the number at PC (30_encoding.md R70). -/
theorem fetchWord_numberAtPc {s : State} (hf : s.fetchable) : ∃ w, fetchWord s = .ok w ∧ w.toNat = s.numberAtPc :=
  ⟨_, fetchWord_ok s hf, concatBytes_toNat _ _⟩

/-- How the fetch and the decode end: an instruction from a place inside memory, or a halt that tells the truth of
the state it stands in. -/
theorem fetchInstr_cases {s : State} (hw : s.wait = none) :
    (∃ i, fetchInstr s = .ok i ∧ s.fetchable) ∨ ∃ e, fetchInstr s = .error e ∧ e.truthful (s.raiseHalt e) := by
  by_cases hf : s.fetchable
  · obtain ⟨w, hfetch, hnum⟩ := fetchWord_numberAtPc hf
    cases hd : decode w with
    | ok i => exact .inl ⟨i, by simp [fetchInstr, hfetch, hd], hf⟩
    | error e =>
      rw [decode_error hd] at hd
      exact .inr ⟨.unknownInstruction w, by simp [fetchInstr, hfetch, hd], hw, hf, hnum, hd⟩
  · exact .inr ⟨.fetchOutOfRange s.pc, by simp [fetchInstr, fetchWord_error s hf], hw, rfl, hf⟩

/-- STEP of a running machine, taken apart: it executes an instruction fetched inside memory, or it halts in its
pre-state with the truth (40_engine.md R103). -/
theorem step_cases {s t : State} (hrun : s.running) (h : step s = .next t) :
    (∃ i, fetchInstr s = .ok i ∧ s.fetchable ∧ exec i s = .next t) ∨
      ∃ e, t = s.raiseHalt e ∧ e.truthful t := by
  rw [step_of_running s hrun] at h
  rcases fetchInstr_cases hrun.2 with ⟨i, hi, hf⟩ | ⟨e, he, htrue⟩
  · rw [hi] at h
    exact .inl ⟨i, hi, hf, h⟩
  · rw [he] at h
    cases h
    exact .inr ⟨e, rfl, htrue⟩

/-- Settles O28: the step completes an instruction fetched inside memory, whose next PC is bounded. -/
theorem computedPcStaysBelow10FF : Obligations.ComputedPcStaysBelow10FF := by
  intro s t hrun hret h hhalt
  rcases step_cases hrun h with ⟨i, hi, hf, hexec⟩ | ⟨e, rfl, -⟩
  · rcases ends_of_exec hexec with ⟨e, -, rfl⟩ | hc
    · cases hhalt
    · exact (hc.pc (by rintro rfl; exact hret hi)).toNat_le hf
  · cases hhalt

/-! ### STEP keeps the invariant (10_state.md R34, 60_exceptions.md R313) -/

/-- A state that is not halted meets the invariant by its first three clauses. -/
theorem Inv.of_not_halted {s : State} (hh : s.halt = none) (hm : s.mem.wf) (hsp : s.sp.toNat % 2 = 0)
    (hw : s.wait ≠ none → s.fetchable) : Inv s :=
  ⟨hm, hsp, hw, by simp [hh]⟩

/-- A halt keeps the invariant when its record tells the truth. -/
theorem Inv.raiseHalt {s : State} {e : Halt} (hs : Inv s) (he : e.truthful (s.raiseHalt e)) : Inv (s.raiseHalt e) :=
  ⟨hs.mem_wf, hs.sp_even, hs.wait_fetched, by rintro h ⟨⟩; exact he⟩

/-- A halt raised by the instruction a running machine has fetched tells the truth: the state without its `H` is the
pre-state, in which the instruction raises it. -/
theorem truthful_of_raises {i : Instr} {s : State} {e : Halt} (hrun : s.running) (hi : fetchInstr s = .ok i)
    (hexec : exec i s = .next (s.raiseHalt e)) (he : Raises i s e) : e.truthful (s.raiseHalt e) := by
  obtain ⟨hhalt, hwait⟩ := hrun
  cases he with
  | @memory a htouch ha =>
    have hpre : { s.raiseHalt (.memoryOutOfRange a) with halt := none } = s := by
      rw [← hhalt]
      rfl
    exact ⟨hwait, ha, i, hi, htouch, by rw [hpre]; exact hexec⟩
  | key hkey hv => exact ⟨hwait, hv, _, by rcases hkey with rfl | rfl; exacts [.inl hi, .inr hi], rfl⟩

/-- A completed instruction leaves a wait only where it was fetched. -/
theorem fetchable_of_completes {i : Instr} {s t : State} (hrun : s.running) (hf : s.fetchable)
    (hexec : exec i s = .next t) (hw : t.wait ≠ none) : t.fetchable := by
  by_cases hi : .wait ∈ i.writes
  · obtain ⟨x, rfl⟩ := Instr.eq_waitKey_of_writes_wait hi
    cases hexec
    exact hf
  · have hsame : t.wait = s.wait := (frame_of_exec hexec).2 .wait hi
    exact absurd (hsame.trans hrun.2) hw

/-- Settles O59: a machine that is not running stands still; a running one halts with the truth or completes the
instruction it has fetched. -/
theorem stepKeepsTheInvariant : Obligations.StepKeepsTheInvariant := by
  intro s t hs h
  by_cases hrun : s.running
  · rcases step_cases hrun h with ⟨i, hi, hf, hexec⟩ | ⟨e, rfl, he⟩
    · rcases ends_of_exec hexec with ⟨e, he, rfl⟩ | hc
      · exact hs.raiseHalt (truthful_of_raises hrun hi hexec he)
      · exact .of_not_halted (hc.halt.trans hrun.1) (hc.mem_wf hs.mem_wf) (hc.sp_parity.trans hs.sp_even)
          (fetchable_of_completes hrun hf hexec)
    · exact hs.raiseHalt he
  · rw [step_of_not_running s hrun] at h
    cases h
    exact hs

/-! ### The other operations of the host -/

/-- Settles O58. -/
theorem resetMeetsTheInvariant : Obligations.ResetMeetsTheInvariant :=
  .of_not_halted rfl reset_mem_wf (by decide) (fun h => absurd rfl h)

theorem commit_setRandom {α : Type} (s : State) (r : Except Halt α) {k k' : α → State} {l : List Byte} {n : Nat}
    (hk : ∀ a, k' a = (k a).setRandom l n) : (s.setRandom l n).commit r k' = (s.commit r k).setRandom l n := by
  cases r with
  | error e => rfl
  | ok a => exact hk a

/-- An instruction that touches memory is none that reads the random fields, so it runs alike under any of them. -/
theorem exec_setRandom {i : Instr} {s t : State} (hi : i.touchesMemory = true) (h : exec i s = .next t)
    (l : List Byte) (n : Nat) : exec i (s.setRandom l n) = .next (t.setRandom l n) := by
  cases i with
  | ret | call _ | draw _ _ _ | bcd _ | dumpRegs _ | loadRegs _ =>
    cases h
    exact congrArg Host.Outcome.next (commit_setRandom s _ fun _ => rfl)
  | _ => cases hi

theorem Halt.truthful_setRandom {h : Halt} {s : State} (ht : h.truthful s) (l : List Byte) (n : Nat) :
    h.truthful (s.setRandom l n) := by
  cases h with
  | memoryOutOfRange a =>
    obtain ⟨hw, ha, i, hi, htouch, hexec⟩ := ht
    exact ⟨hw, ha, i, hi, htouch, exec_setRandom htouch hexec l n⟩
  | unknownInstruction w => exact ht
  | fetchOutOfRange p => exact ht
  | keyOutOfRange v => exact ht
  | imageTooLong m => exact ht

/-- The random fields are the model's own (log 1), and the invariant does not look at them. -/
theorem Inv.setRandom {s : State} (hs : Inv s) (l : List Byte) (n : Nat) : Inv (s.setRandom l n) :=
  ⟨hs.mem_wf, hs.sp_even, hs.wait_fetched, fun h hh => Halt.truthful_setRandom (hs.halt_true h hh) l n⟩

/-- An operation without effect in a halted state need keep the invariant in the others only. -/
theorem Inv.unlessHalted {s t : State} (hs : Inv s) (ht : s.halt = none → Inv t) : Inv (s.unlessHalted t) := by
  unfold State.unlessHalted
  cases hh : s.halt with
  | none => exact ht hh
  | some h => exact hs

theorem Inv.loadOp {s : State} (hs : Inv s) (bytes : List Byte) : Inv (loadOp bytes s) := by
  refine hs.unlessHalted fun hh => ?_
  unfold loadImage
  split
  · next hlong => exact hs.raiseHalt hlong
  · next hshort =>
    obtain ⟨m, hm, hwf, -⟩ := writeBytes_ok s.mem progBase bytes
      (.inr (by simp only [progBase, maxImage, memSize] at *; omega))
    rw [hm]
    exact .of_not_halted hh (hwf hs.mem_wf) hs.sp_even hs.wait_fetched

theorem Inv.tickOp {s : State} (hs : Inv s) : Inv (tickOp s) :=
  hs.unlessHalted fun hh => .of_not_halted hh hs.mem_wf hs.sp_even hs.wait_fetched

theorem Inv.pressOp {s : State} (hs : Inv s) (k : KeyCode) : Inv (pressOp k s) := by
  refine hs.unlessHalted fun hh => ?_
  split
  · exact .of_not_halted hh hs.mem_wf hs.sp_even hs.wait_fetched
  · exact .of_not_halted hh hs.mem_wf hs.sp_even (fun h => absurd rfl h)

theorem Inv.releaseOp {s : State} (hs : Inv s) (k : KeyCode) : Inv (releaseOp k s) :=
  hs.unlessHalted fun hh => .of_not_halted hh hs.mem_wf hs.sp_even hs.wait_fetched

/-- A STEP with a random byte is a STEP between two changes of the random fields. -/
theorem Inv.stepWith {s t : State} (hs : Inv s) {r : Byte} (h : stepWith r s = .next t) : Inv t := by
  unfold Machine.stepWith at h
  split at h <;> cases h
  next hstep => exact (stepKeepsTheInvariant _ _ (hs.setRandom _ _) hstep).setRandom _ _

theorem Inv.apply {op : HostOp} {s t : State} (hs : Inv s) (h : op.apply s = .next t) : Inv t := by
  cases op with
  | step r => exact hs.stepWith h
  | reset =>
    cases h
    exact resetMeetsTheInvariant.setRandom _ _
  | load bytes =>
    cases h
    exact hs.loadOp bytes
  | tick =>
    cases h
    exact hs.tickOp
  | press k =>
    cases h
    exact hs.pressOp k
  | release k =>
    cases h
    exact hs.releaseOp k

theorem Inv.runOps {ops : List HostOp} {s t : State} (hs : Inv s) (h : runOps ops s = .next t) : Inv t := by
  induction ops generalizing s with
  | nil =>
    cases h
    exact hs
  | cons op ops ih =>
    unfold Machine.runOps at h
    split at h
    · next happly => exact ih (hs.apply happly) h
    · cases h
    · cases h

/-- Settles O60: by one operation at a time, then by induction on the schedule. -/
theorem everyScheduleKeepsTheInvariant : Obligations.EveryScheduleKeepsTheInvariant :=
  ⟨fun _ _ _ hs h => hs.apply h, fun _ _ h => Inv.runOps resetMeetsTheInvariant h⟩

end Sys2Proof.Machine

/-! PROOFS. The family of 20_memory.md: what a checked access reads after a write and which address it reports (R52,
R57), the byte order of the two-byte quantities (R53), and code stored just before it is fetched (R63). -/

namespace Sys2Proof.Machine

/-! ### Single bytes -/

/-- Settles O6: inside memory the checked accesses are `Memory.read` and `Memory.write`, whose law is
`Memory.read_write`; outside, both reads raise the same halt. -/
theorem writeChangesOnlyItsByte : Obligations.WriteChangesOnlyItsByte := by
  intro m a b (ha : a < memSize)
  refine ⟨m.write a b, writeByte_ok m b ha, ?_, fun a' hne => ?_⟩
  · rw [readByte_ok _ ha, Memory.read_write, if_pos rfl]
  · rw [readByte, readByte, Memory.read_write, if_neg hne]

/-! ### Several bytes -/

/-- What a write that applied has stored is read back by an access of the same extent. -/
theorem readBytes_writeBytes_same {m m' : Memory} {a : Nat} {bytes : List Byte} (hfit : a + bytes.length ≤ memSize)
    (hw : writeBytes m a bytes = .ok m') : readBytes m' a bytes.length = .ok bytes := by
  obtain ⟨m₁, hok, -, hread⟩ := writeBytes_ok m a bytes (.inr hfit)
  obtain rfl : m₁ = m' := by simpa [hok] using hw
  rw [readBytes_ok m₁ a bytes.length (.inr hfit)]
  have hbytes : (List.range bytes.length).map (fun j => m₁.read (a + j)) = bytes :=
    List.ext_getElem (by simp) fun j _ hj => by simp [hread, hj]
  rw [hbytes]

/-- Settles O7: an access either fits, or reports `max a 0x1000`, the lowest of its addresses past memory. -/
theorem accessReportsLowestBadAddress : Obligations.AccessReportsLowestBadAddress := by
  intro m a bytes hne
  have hpos : 0 < bytes.length := List.length_pos_iff.mpr hne
  refine ⟨fun hfit => ?_, fun hpast => ⟨max a memSize, writeBytes_error m a bytes hne hpast,
    readBytes_error m a bytes.length hpos hpast, le_max_right a memSize, le_max_left a memSize,
    max_lt (by omega) hpast, fun e' hle hlt => ?_⟩⟩
  · obtain ⟨m', hw, -⟩ := writeBytes_ok m a bytes (.inr hfit)
    exact ⟨m', hw, readBytes_writeBytes_same hfit hw⟩
  · exact (lt_max_iff.mp hlt).resolve_left hle.not_gt

/-! ### Words -/

/-- The high byte stands at the lower address, and no other byte changes (20_memory.md R53). -/
theorem storeWord_read (m : Memory) (a a' : Nat) (w : Word) : (storeWord m a w).read a' =
    if a' = a + 1 then lowByte w else if a' = a then highByte w else m.read a' := by
  rw [storeWord, Memory.read_write, Memory.read_write]

theorem writeWord_ok (m : Memory) {a : Nat} (w : Word) (h : a + 1 < memSize) :
    writeWord m a w = .ok (storeWord m a w) := by
  rw [writeWord, writeBytes, writeByte_ok m _ (by omega)]
  simp only [writeBytes, writeByte_ok _ _ h, storeWord]

/-- Settles O8: the word written is `storeWord`, and the word read puts its two bytes together. -/
theorem wordsAreBigEndian : Obligations.WordsAreBigEndian := by
  intro m a w (h : a + 1 < memSize)
  refine ⟨⟨storeWord m a w, writeWord_ok m w h, ?_, ?_, fun a' ha ha1 => ?_⟩,
    ⟨_, readWord_ok m h, concatBytes_toNat _ _⟩⟩
  · simp [storeWord_read, highByte_toNat]
  · simp [storeWord_read, lowByte_toNat]
  · simp [storeWord_read, ha, ha1]

/-! ### Stored code -/

/-- A dump that fits stores each register at its place, changes no other byte, and advances (43_index_memory.md
R204). -/
theorem exec_dumpRegs_ok (s : State) (x : RegIdx) (h : s.base + x.val < memSize) :
    ∃ m, exec (.dumpRegs x) s = .next (s.setMem m).advance ∧
      (∀ j : RegIdx, j ≤ x → m.read (s.base + j.val) = s.reg j) ∧
      ∀ a, a < s.base ∨ s.base + x.val < a → m.read a = s.mem.read a := by
  have hlen := regsUpTo_length s x
  obtain ⟨m, hw, -, hread⟩ := writeBytes_ok s.mem s.base (s.regsUpTo x) (.inr (by omega))
  have hexec : exec (.dumpRegs x) s = execDumpRegs x s := rfl
  refine ⟨m, by rw [hexec, execDumpRegs, hw, State.commit_ok], fun j hj => ?_, fun a ha => ?_⟩
  · have hjx : j.val ≤ x.val := hj
    rw [hread, dif_pos (by omega), regsUpTo_getElem]
    simp
  · rw [hread, dif_neg (by omega)]

/-- The instruction fetched is the decoded number at PC (30_encoding.md R70). -/
theorem fetchInstr_of_numberAtPc {s : State} {w : Word} {i : Instr} (hf : s.fetchable) (hw : w.toNat = s.numberAtPc)
    (hd : decode w = .ok i) : fetchInstr s = .ok i := by
  obtain ⟨w', hfetch, hnum⟩ := fetchWord_numberAtPc hf
  obtain rfl : w' = w := BitVec.eq_of_toNat_eq (hnum.trans hw.symm)
  simp [fetchInstr, hfetch, hd]

theorem step_of_fetchInstr {s : State} {i : Instr} (hrun : s.running) (hi : fetchInstr s = .ok i) :
    step s = exec i s := by
  rw [step_of_running s hrun, hi]

/-- Settles O10: the dump leaves V0 and V1 at the next PC, so they are the number the next STEP fetches. -/
theorem storedCodeIsFetchedNext : Obligations.StoredCodeIsFetchedNext := by
  intro s j hrun hi hidx hpc hd
  have hbase : s.base = s.pc.toNat + 2 := hidx
  have hfit : s.base + (1 : RegIdx).val < memSize := by
    show s.base + 1 < 0x1000
    omega
  obtain ⟨m, hexec, hstored, -⟩ := exec_dumpRegs_ok s 1 hfit
  have hnext : (s.setMem m).advance.pc.toNat = s.base := by
    show (s.pc + 2).toNat = s.base
    rw [word_add_two, u16_toNat]
    omega
  have hnum : (s.setMem m).advance.numberAtPc = (s.reg 0).toNat * 256 + (s.reg 1).toNat := by
    rw [State.numberAtPc, hnext, ← hstored 0 (by decide), ← hstored 1 (by decide)]
    rfl
  refine ⟨_, (step_of_fetchInstr hrun hi).trans hexec,
    step_of_fetchInstr hrun (fetchInstr_of_numberAtPc ?_ ?_ hd)⟩
  · show (s.setMem m).advance.pc.toNat + 1 ≤ 0xFFF
    omega
  · rw [hnum, u16_toNat]
    omega

end Sys2Proof.Machine

/-! PROOFS. The family of 30_encoding.md: the decoder and the encoder are inverse on well-formed instructions (R74),
the decoder is the opcode table (R75), and the unknown words are those of the six shapes of R77. -/

namespace Sys2Proof

/-! ### The fields of an encoded word (30_encoding.md R72, R73) -/

section FieldsOfEncoded

variable {op : Nat} {x y : RegIdx} {nnn : Addr12}

@[simp] theorem nibble1_encNNN (h : op < 16) : (nibble1 (encNNN op nnn)).toNat = op := by
  rw [nibble1_toNat, encNNN_toNat op nnn h]
  omega

@[simp] theorem fieldNNN_encNNN (h : op < 16) : fieldNNN (encNNN op nnn) = nnn := by
  apply BitVec.eq_of_toNat_eq
  rw [fieldNNN_toNat, encNNN_toNat op nnn h]
  omega

@[simp] theorem nibble1_encXKK {k : Nat} (h : op < 16) (hk : k < 256) : (nibble1 (encXKK op x k)).toNat = op := by
  rw [nibble1_toNat, encXKK_toNat op x k h hk]
  omega

@[simp] theorem fieldX_encXKK {k : Nat} (h : op < 16) (hk : k < 256) : fieldX (encXKK op x k) = x := by
  apply Fin.ext
  rw [fieldX_val, encXKK_toNat op x k h hk]
  omega

@[simp] theorem fieldKK_encXKK {k : Nat} (h : op < 16) (hk : k < 256) : fieldKK (encXKK op x k) = u8 k := by
  apply BitVec.eq_of_toNat_eq
  rw [fieldKK_toNat, encXKK_toNat op x k h hk, u8_toNat]
  omega

@[simp] theorem u8_of_toNat (b : Byte) : u8 b.toNat = b := by simp [u8]

@[simp] theorem nibble1_encXYN {n : Nat} (h : op < 16) (hn : n < 16) : (nibble1 (encXYN op x y n)).toNat = op := by
  rw [nibble1_toNat, encXYN_toNat op x y n h hn]
  omega

@[simp] theorem fieldX_encXYN {n : Nat} (h : op < 16) (hn : n < 16) : fieldX (encXYN op x y n) = x := by
  apply Fin.ext
  rw [fieldX_val, encXYN_toNat op x y n h hn]
  omega

@[simp] theorem fieldY_encXYN {n : Nat} (h : op < 16) (hn : n < 16) : fieldY (encXYN op x y n) = y := by
  apply Fin.ext
  rw [fieldY_val, encXYN_toNat op x y n h hn]
  omega

@[simp] theorem nibble4_encXYN {n : Nat} (h : op < 16) (hn : n < 16) :
    nibble4 (encXYN op x y n) = BitVec.ofNat 4 n := by
  apply BitVec.eq_of_toNat_eq
  rw [nibble4_toNat, encXYN_toNat op x y n h hn, BitVec.toNat_ofNat]
  omega

@[simp] theorem fieldN_encXYN {n : Nat} (h : op < 16) (hn : n < 16) : fieldN (encXYN op x y n) = n := by
  rw [fieldN, nibble4_encXYN h hn, BitVec.toNat_ofNat]
  omega

end FieldsOfEncoded

/-! ### Decoding what was encoded -/

/-- One case per format of 30_encoding.md R73: the first nibble and the function digits select the row, and the
operand fields are those encoded. -/
theorem decode_encode {i : Instr} (h : i.wf = true) : decode (encode i) = .ok i := by
  cases i
  case clearScreen | ret => decide
  case jump | call | setIndex | indexedJump => simp [encode, decode]
  case skipEqImm x kk | skipNeImm x kk | loadImm x kk | addImm x kk | rand x kk =>
    have := kk.isLt
    simp [encode, decode, this]
  case skipEqReg | skipNeReg => simp [encode, decode]
  case move | orReg | andReg | xorReg | addReg | subReg | shr | subnReg | shl => simp [encode, decode, decodeAlu]
  case draw x y n =>
    have hn : n < 16 := of_decide_eq_true h
    simp [encode, decode, hn]
  case skipKeyDown | skipKeyUp => simp [encode, decode, decodeKey]
  case loadDelay | waitKey | setDelay | setSound | addIndex | spriteAddr | bcd | dumpRegs | loadRegs =>
    simp [encode, decode, decodeMisc]

/-- Settles O2: the decoder reads back the word (`decode_encode`), which is its two bytes put together. -/
theorem decodeOfEncodeIsIdentity : Obligations.DecodeOfEncodeIsIdentity := by
  intro i rest h
  exact ⟨decode_encode h, by simp [encodeBytes, decodeBytes, decode_encode h]⟩

/-! ### Encoding what was decoded -/

/-- A word is the NNN word of its fields. -/
theorem encNNN_fields {w : Word} {op : Nat} (h : (nibble1 w).toNat = op) : encNNN op (fieldNNN w) = w := by
  rw [nibble1_toNat] at h
  apply BitVec.eq_of_toNat_eq
  rw [encNNN, u16_toNat, fieldNNN_toNat]
  omega

/-- A word is the XKK word of its fields. -/
theorem encXKK_fields {w : Word} {op k : Nat} (h : (nibble1 w).toNat = op) (hk : (fieldKK w).toNat = k) :
    encXKK op (fieldX w) k = w := by
  rw [nibble1_toNat] at h
  rw [fieldKK_toNat] at hk
  apply BitVec.eq_of_toNat_eq
  rw [encXKK, u16_toNat, fieldX_val]
  omega

/-- A word is the XYN word of its fields. -/
theorem encXYN_fields {w : Word} {op n : Nat} (h : (nibble1 w).toNat = op) (hn : (nibble4 w).toNat = n) :
    encXYN op (fieldX w) (fieldY w) n = w := by
  rw [nibble1_toNat] at h
  rw [nibble4_toNat] at hn
  apply BitVec.eq_of_toNat_eq
  rw [encXYN, wordOfNibbles, u16_toNat, fieldX_val, fieldY_val]
  omega

theorem encode_of_decodeFormat0 {w : Word} {i : Instr} (h : decodeFormat0 w = .ok i) : i.wf = true ∧ encode i = w := by
  unfold decodeFormat0 at h
  split at h <;> cases h
  all_goals exact ⟨rfl, BitVec.eq_of_toNat_eq (Eq.symm ‹_›)⟩

theorem encode_of_decodeAlu {w : Word} {i : Instr} (h1 : (nibble1 w).toNat = 0x8) (h : decodeAlu w = .ok i) :
    i.wf = true ∧ encode i = w := by
  unfold decodeAlu at h
  split at h <;> cases h
  all_goals exact ⟨rfl, encXYN_fields h1 ‹_›⟩

theorem encode_of_decodeKey {w : Word} {i : Instr} (h1 : (nibble1 w).toNat = 0xE) (h : decodeKey w = .ok i) :
    i.wf = true ∧ encode i = w := by
  unfold decodeKey at h
  split at h <;> cases h
  all_goals exact ⟨rfl, encXKK_fields h1 ‹_›⟩

theorem encode_of_decodeMisc {w : Word} {i : Instr} (h1 : (nibble1 w).toNat = 0xF) (h : decodeMisc w = .ok i) :
    i.wf = true ∧ encode i = w := by
  unfold decodeMisc at h
  split at h <;> cases h
  all_goals exact ⟨rfl, encXKK_fields h1 ‹_›⟩

/-- Settles O3: each arm of the decoder reads the fields of one format, and a word is put together from them. -/
theorem encodeOfDecodeIsTheWord : Obligations.EncodeOfDecodeIsTheWord := by
  intro w i h
  unfold decode at h
  split at h
  -- the first nibbles that have several rows
  case h_1 => exact encode_of_decodeFormat0 h
  case h_9 h1 => exact encode_of_decodeAlu h1 h
  case h_15 h1 => exact encode_of_decodeKey h1 h
  case h_16 h1 => exact encode_of_decodeMisc h1 h
  -- 5xy0 and 9xy0
  case h_6 h1 | h_10 h1 =>
    split at h <;> cases h
    rename_i h4
    exact ⟨rfl, encXYN_fields h1 (congrArg BitVec.toNat h4)⟩
  -- Dxyn
  case h_14 h1 =>
    cases h
    exact ⟨decide_eq_true (nibble4 w).isLt, encXYN_fields h1 rfl⟩
  -- no first nibble
  case h_17 => cases h
  -- format NNN
  case h_2 h1 | h_3 h1 | h_11 h1 | h_12 h1 =>
    cases h
    exact ⟨rfl, encNNN_fields h1⟩
  -- format XKK
  all_goals
    cases h
    exact ⟨rfl, encXKK_fields ‹_› rfl⟩

/-! ### The rows of the opcode table (30_encoding.md R75) -/

/-- Every well-formed instruction's word matches the row of its name. -/
theorem encode_matchesRow (i : Instr) : Laws.MatchesRow.Statement i :=
  match i with
  | .clearScreen => Laws.MatchesRow.clearScreen
  | .ret => Laws.MatchesRow.ret
  | .jump nnn => Laws.MatchesRow.jump nnn
  | .call nnn => Laws.MatchesRow.call nnn
  | .skipEqImm x kk => Laws.MatchesRow.skipEqImm x kk
  | .skipNeImm x kk => Laws.MatchesRow.skipNeImm x kk
  | .skipEqReg x y => Laws.MatchesRow.skipEqReg x y
  | .loadImm x kk => Laws.MatchesRow.loadImm x kk
  | .addImm x kk => Laws.MatchesRow.addImm x kk
  | .move x y => Laws.MatchesRow.move x y
  | .orReg x y => Laws.MatchesRow.orReg x y
  | .andReg x y => Laws.MatchesRow.andReg x y
  | .xorReg x y => Laws.MatchesRow.xorReg x y
  | .addReg x y => Laws.MatchesRow.addReg x y
  | .subReg x y => Laws.MatchesRow.subReg x y
  | .shr x y => Laws.MatchesRow.shr x y
  | .subnReg x y => Laws.MatchesRow.subnReg x y
  | .shl x y => Laws.MatchesRow.shl x y
  | .skipNeReg x y => Laws.MatchesRow.skipNeReg x y
  | .setIndex nnn => Laws.MatchesRow.setIndex nnn
  | .indexedJump nnn => Laws.MatchesRow.indexedJump nnn
  | .rand x kk => Laws.MatchesRow.rand x kk
  | .draw x y n => Laws.MatchesRow.draw x y n
  | .skipKeyDown x => Laws.MatchesRow.skipKeyDown x
  | .skipKeyUp x => Laws.MatchesRow.skipKeyUp x
  | .loadDelay x => Laws.MatchesRow.loadDelay x
  | .waitKey x => Laws.MatchesRow.waitKey x
  | .setDelay x => Laws.MatchesRow.setDelay x
  | .setSound x => Laws.MatchesRow.setSound x
  | .addIndex x => Laws.MatchesRow.addIndex x
  | .spriteAddr x => Laws.MatchesRow.spriteAddr x
  | .bcd x => Laws.MatchesRow.bcd x
  | .dumpRegs x => Laws.MatchesRow.dumpRegs x
  | .loadRegs x => Laws.MatchesRow.loadRegs x

/-- A word that decodes matches the row of its instruction's name. -/
theorem matches_of_decode {w : Word} {i : Instr} (h : decode w = .ok i) :
    ∃ r ∈ opcodeTable, r.matches w = true ∧ r.mnemonic = i.mnemonic := by
  obtain ⟨hwf, rfl⟩ := encodeOfDecodeIsTheWord w i h
  obtain ⟨r, hr, hname, hmatch⟩ := encode_matchesRow i hwf
  exact ⟨r, hr, hmatch, hname⟩

/-- Every word the row matches encodes an instruction of the row's name: the converse of `MatchesRow.Statement`. -/
def OpcodeRow.Encodes (r : OpcodeRow) : Prop :=
  ∀ w, r.matches w = true → ∃ i : Instr, i.wf = true ∧ encode i = w ∧ i.mnemonic = r.mnemonic

/-! One lemma per format: a row of the format encodes the instructions of one constructor `mk`. -/

section RowFormats

variable {name : String}

/-- A row without operands. -/
theorem encodes_fixed (i : Instr) (hwf : i.wf = true) : OpcodeRow.Encodes ⟨i.mnemonic, 0xFFFF, encode i⟩ := by
  intro w hw
  have hw : w &&& BitVec.allOnes 16 = encode i := eq_of_beq hw
  rw [BitVec.and_allOnes] at hw
  exact ⟨i, hwf, hw.symm, rfl⟩

theorem nibble1_of_matches {op : Nat} {w : Word} (h : op < 16)
    (hw : OpcodeRow.matches ⟨name, 0xF000, u16 (op * 4096)⟩ w = true) :
    (nibble1 w).toNat = op := by
  have hw := congrArg BitVec.toNat (eq_of_beq hw)
  rw [and_0xF000, u16_toNat] at hw
  rw [nibble1_toNat]
  omega

/-- A row of format NNN. -/
theorem encodes_NNN (op : Nat) (mk : Addr12 → Instr)
    (hmk : ∀ nnn, (mk nnn).wf = true ∧ encode (mk nnn) = encNNN op nnn ∧ (mk nnn).mnemonic = name := by
      exact fun _ => ⟨rfl, rfl, rfl⟩)
    (h : op < 16 := by decide) :
    OpcodeRow.Encodes ⟨name, 0xF000, u16 (op * 4096)⟩ := by
  intro w hw
  obtain ⟨hwf, henc, hname⟩ := hmk (fieldNNN w)
  exact ⟨_, hwf, henc.trans (encNNN_fields (nibble1_of_matches h hw)), hname⟩

/-- A row of format XKK. -/
theorem encodes_XKK (op : Nat) (mk : RegIdx → Byte → Instr)
    (hmk : ∀ x kk, (mk x kk).wf = true ∧ encode (mk x kk) = encXKK op x kk.toNat ∧ (mk x kk).mnemonic = name := by
      exact fun _ _ => ⟨rfl, rfl, rfl⟩)
    (h : op < 16 := by decide) :
    OpcodeRow.Encodes ⟨name, 0xF000, u16 (op * 4096)⟩ := by
  intro w hw
  obtain ⟨hwf, henc, hname⟩ := hmk (fieldX w) (fieldKK w)
  exact ⟨_, hwf, henc.trans (encXKK_fields (nibble1_of_matches h hw) rfl), hname⟩

/-- A row of format XYN. -/
theorem encodes_XYN (op : Nat) (mk : RegIdx → RegIdx → Nat → Instr)
    (hmk : ∀ x y n, n < 16 → (mk x y n).wf = true ∧ encode (mk x y n) = encXYN op x y n ∧ (mk x y n).mnemonic = name)
    (h : op < 16 := by decide) :
    OpcodeRow.Encodes ⟨name, 0xF000, u16 (op * 4096)⟩ := by
  intro w hw
  obtain ⟨hwf, henc, hname⟩ := hmk (fieldX w) (fieldY w) (fieldN w) (nibble4 w).isLt
  exact ⟨_, hwf, henc.trans (encXYN_fields (nibble1_of_matches h hw) rfl), hname⟩

/-- A row of format XY. -/
theorem encodes_XY (op f : Nat) (mk : RegIdx → RegIdx → Instr)
    (hmk : ∀ x y, (mk x y).wf = true ∧ encode (mk x y) = encXYN op x y f ∧ (mk x y).mnemonic = name := by
      exact fun _ _ => ⟨rfl, rfl, rfl⟩)
    (h : op < 16 := by decide) (hf : f < 16 := by decide) :
    OpcodeRow.Encodes ⟨name, 0xF00F, u16 (op * 4096 + f)⟩ := by
  intro w hw
  have hw := congrArg BitVec.toNat (eq_of_beq hw)
  rw [and_0xF00F, u16_toNat] at hw
  obtain ⟨hwf, henc, hname⟩ := hmk (fieldX w) (fieldY w)
  refine ⟨_, hwf, henc.trans (encXYN_fields ?_ ?_), hname⟩
  · rw [nibble1_toNat]
    omega
  · rw [nibble4_toNat]
    omega

/-- A row of format XFN. -/
theorem encodes_XFN (op f : Nat) (mk : RegIdx → Instr)
    (hmk : ∀ x, (mk x).wf = true ∧ encode (mk x) = encXKK op x f ∧ (mk x).mnemonic = name := by
      exact fun _ => ⟨rfl, rfl, rfl⟩)
    (h : op < 16 := by decide) (hf : f < 256 := by decide) :
    OpcodeRow.Encodes ⟨name, 0xF0FF, u16 (op * 4096 + f)⟩ := by
  intro w hw
  have hw := congrArg BitVec.toNat (eq_of_beq hw)
  rw [and_0xF0FF, u16_toNat] at hw
  obtain ⟨hwf, henc, hname⟩ := hmk (fieldX w)
  refine ⟨_, hwf, henc.trans (encXKK_fields ?_ ?_), hname⟩
  · rw [nibble1_toNat]
    omega
  · rw [fieldKK_toNat]
    omega

end RowFormats

/-- Each row encodes the instructions of its name, in the order of the table. -/
theorem opcodeTable_encodes : ∀ r ∈ opcodeTable, r.Encodes := by
  simp only [opcodeTable, List.forall_mem_cons]
  exact ⟨
    encodes_fixed .clearScreen rfl,
    encodes_fixed .ret rfl,
    encodes_NNN 0x1 .jump,
    encodes_NNN 0x2 .call,
    encodes_XKK 0x3 .skipEqImm,
    encodes_XKK 0x4 .skipNeImm,
    encodes_XY 0x5 0x0 .skipEqReg,
    encodes_XKK 0x6 .loadImm,
    encodes_XKK 0x7 .addImm,
    encodes_XY 0x8 0x0 .move,
    encodes_XY 0x8 0x1 .orReg,
    encodes_XY 0x8 0x2 .andReg,
    encodes_XY 0x8 0x3 .xorReg,
    encodes_XY 0x8 0x4 .addReg,
    encodes_XY 0x8 0x5 .subReg,
    encodes_XY 0x8 0x6 .shr,
    encodes_XY 0x8 0x7 .subnReg,
    encodes_XY 0x8 0xE .shl,
    encodes_XY 0x9 0x0 .skipNeReg,
    encodes_NNN 0xA .setIndex,
    encodes_NNN 0xB .indexedJump,
    encodes_XKK 0xC .rand,
    encodes_XYN 0xD .draw (fun _ _ _ hn => ⟨decide_eq_true hn, rfl, rfl⟩),
    encodes_XFN 0xE 0x9E .skipKeyDown,
    encodes_XFN 0xE 0xA1 .skipKeyUp,
    encodes_XFN 0xF 0x07 .loadDelay,
    encodes_XFN 0xF 0x0A .waitKey,
    encodes_XFN 0xF 0x15 .setDelay,
    encodes_XFN 0xF 0x18 .setSound,
    encodes_XFN 0xF 0x1E .addIndex,
    encodes_XFN 0xF 0x29 .spriteAddr,
    encodes_XFN 0xF 0x33 .bcd,
    encodes_XFN 0xF 0x55 .dumpRegs,
    encodes_XFN 0xF 0x65 .loadRegs,
    List.forall_mem_nil _⟩

/-- A word that a row matches decodes, to an instruction of the row's name. -/
theorem decode_of_matches {r : OpcodeRow} (hr : r ∈ opcodeTable) {w : Word} (hw : r.matches w = true) :
    ∃ i, decode w = .ok i ∧ i.mnemonic = r.mnemonic := by
  obtain ⟨i, hwf, rfl, hname⟩ := opcodeTable_encodes r hr w hw
  exact ⟨i, decode_encode hwf, hname⟩

theorem opcodeTable_nodup_mnemonic : (opcodeTable.map OpcodeRow.mnemonic).Nodup := by decide

/-- Two rows that match one word are the same row: the word decodes to one instruction, which has one name. -/
theorem eq_of_matches {r r' : OpcodeRow} (hr : r ∈ opcodeTable) (hr' : r' ∈ opcodeTable) {w : Word}
    (hw : r.matches w = true) (hw' : r'.matches w = true) : r = r' := by
  obtain ⟨i, hi, hname⟩ := decode_of_matches hr hw
  obtain ⟨i', hi', hname'⟩ := decode_of_matches hr' hw'
  obtain rfl : i = i' := Except.ok.inj (hi.symm.trans hi')
  exact List.inj_on_of_nodup_map opcodeTable_nodup_mnemonic hr hr' (hname.symm.trans hname')

/-- At most one row matches a word. -/
theorem length_filter_matches_le_one (w : Word) : (opcodeTable.filter fun r => r.matches w).length ≤ 1 := by
  have hnodup := (List.Nodup.of_map _ opcodeTable_nodup_mnemonic).filter fun r => r.matches w
  rw [← List.toFinset_card_of_nodup hnodup, Finset.card_le_one]
  simp only [List.mem_toFinset, List.mem_filter]
  exact fun r ⟨hr, hw⟩ r' ⟨hr', hw'⟩ => eq_of_matches hr hr' hw hw'

/-- A word that no row matches is UNKNOWN (30_encoding.md R75). -/
theorem decode_of_no_match {w : Word} (h : ∀ r ∈ opcodeTable, r.matches w = false) :
    decode w = .error (.unknownInstruction w) := by
  cases hd : decode w with
  | ok i =>
    obtain ⟨r, hr, hw, -⟩ := matches_of_decode hd
    rw [h r hr] at hw
    cases hw
  | error e => rw [decode_error hd]

/-- A running machine that fetches an UNKNOWN word halts with that word, nothing else changed (30_encoding.md R75). -/
theorem Machine.step_of_unknown {s : Machine.State} {w : Word} (hrun : s.running) (hf : s.fetchable)
    (hw : w.toNat = s.numberAtPc) (hd : decode w = .error (.unknownInstruction w)) :
    Machine.step s = .next { s with halt := some (.unknownInstruction w) } := by
  obtain ⟨w', hfetch, hnum⟩ := Machine.fetchWord_numberAtPc hf
  obtain rfl : w' = w := BitVec.eq_of_toNat_eq (hnum.trans hw.symm)
  have hi : Machine.fetchInstr s = .error (.unknownInstruction w') := by simp [Machine.fetchInstr, hfetch, hd]
  rw [Machine.step_of_running s hrun, hi]
  rfl

/-- Settles O4: rows and instructions correspond by name, in both directions, through the encoder. -/
theorem decoderIsTheOpcodeTable : Obligations.DecoderIsTheOpcodeTable :=
  ⟨length_filter_matches_le_one, fun _ _ h => matches_of_decode h, fun _ hr _ hw => decode_of_matches hr hw,
    fun _ h => decode_of_no_match h, fun _ _ hrun hf hw h => Machine.step_of_unknown hrun hf hw (decode_of_no_match h)⟩

/-! ### Which words are unknown (30_encoding.md R77) -/

/-- The shapes of R77, for a word `w` of first nibble `hi`, last nibble `lo` and low byte `kk`. -/
def isUnknown (hi w lo kk : Nat) : Bool :=
  (hi == 0 && w != 0x00E0 && w != 0x00EE) || (hi == 5 && lo != 0) ||
  (hi == 8 && [0x8, 0x9, 0xA, 0xB, 0xC, 0xD, 0xF].contains lo) || (hi == 9 && lo != 0) ||
  (hi == 0xE && !([0x9E, 0xA1].contains kk)) ||
  (hi == 0xF && !([0x07, 0x0A, 0x15, 0x18, 0x1E, 0x29, 0x33, 0x55, 0x65].contains kk))

/-- The shapes of R77 as a condition on the word alone. -/
def unknownShape (w : Nat) : Bool := isUnknown (w / 4096) w (w % 16) (w % 256)

theorem nibble4_eq_zero_iff (w : Word) : nibble4 w = 0#4 ↔ w.toNat % 16 = 0 := by
  rw [← BitVec.toNat_inj, nibble4_toNat]
  rfl

theorem decodeFormat0_error_iff (w : Word) :
    (∃ e, decodeFormat0 w = .error e) ↔ w.toNat ≠ 0x00E0 ∧ w.toNat ≠ 0x00EE := by
  unfold decodeFormat0
  split <;> simp_all

theorem decodeAlu_error_iff (w : Word) :
    (∃ e, decodeAlu w = .error e) ↔ w.toNat % 16 ∈ [0x8, 0x9, 0xA, 0xB, 0xC, 0xD, 0xF] := by
  unfold decodeAlu
  split
  case h_10 =>
    simp_all [nibble4_toNat]
    omega
  all_goals simp_all [nibble4_toNat]

theorem decodeKey_error_iff (w : Word) : (∃ e, decodeKey w = .error e) ↔ w.toNat % 256 ∉ [0x9E, 0xA1] := by
  unfold decodeKey
  split <;> simp_all [fieldKK_toNat]

theorem decodeMisc_error_iff (w : Word) : (∃ e, decodeMisc w = .error e) ↔
    w.toNat % 256 ∉ [0x07, 0x0A, 0x15, 0x18, 0x1E, 0x29, 0x33, 0x55, 0x65] := by
  unfold decodeMisc
  split <;> simp_all [fieldKK_toNat]

/-- A word is UNKNOWN when it has one of the six shapes: its first nibble selects the shape. -/
theorem decode_error_iff (w : Word) : (∃ e, decode w = .error e) ↔ unknownShape w.toNat = true := by
  have hlt := (nibble1 w).isLt
  rw [unknownShape, ← nibble1_toNat]
  unfold decode
  split <;> rename_i h1
  case h_1 => simp [decodeFormat0_error_iff, isUnknown, h1]
  case h_6 | h_10 => split <;> simp_all [nibble4_eq_zero_iff, isUnknown]
  case h_9 => simp [decodeAlu_error_iff, isUnknown, h1]
  case h_15 => simp [decodeKey_error_iff, isUnknown, h1]
  case h_16 => simp [decodeMisc_error_iff, isUnknown, h1]
  case h_17 =>
    simp only [imp_false] at *
    omega
  all_goals simp [isUnknown, h1]

/-! ### How many words are unknown (30_encoding.md R77) -/

/-- How many unknown words have the first nibble `hi`. -/
def unknownCount (hi : Nat) : Nat := ((List.range 4096).filter fun n => unknownShape (hi * 4096 + n)).length

/-- The shapes of a word given by its first nibble and its last twelve bits. -/
theorem unknownShape_add (hi : Nat) {n : Nat} (h : n < 4096) :
    unknownShape (hi * 4096 + n) = isUnknown hi (hi * 4096 + n) (n % 16) (n % 256) := by
  have hhi : (hi * 4096 + n) / 4096 = hi := by omega
  have hlo : (hi * 4096 + n) % 16 = n % 16 := by omega
  have hkk : (hi * 4096 + n) % 256 = n % 256 := by omega
  rw [unknownShape, hhi, hlo, hkk]

/-- A condition on the remainder by `m` holds equally often in each of `k` runs of `m` numbers. -/
theorem length_filter_range_mul (p : Nat → Bool) (m k : Nat) :
    ((List.range (m * k)).filter fun n => p (n % m)).length = k * ((List.range m).filter p).length := by
  induction k with
  | zero => simp
  | succ k ih =>
    have hrun : (List.range m).filter ((fun n => p (n % m)) ∘ (m * k + ·)) = (List.range m).filter p :=
      List.filter_congr fun n hn => by simp [Nat.mod_eq_of_lt (List.mem_range.mp hn)]
    rw [Nat.mul_succ, List.range_add, List.filter_append, List.length_append, ih, List.filter_map, List.length_map,
      hrun, Nat.succ_mul]

theorem length_filter_range_not_contains {m : Nat} {l : List Nat} (hl : l.Nodup) (hlt : ∀ a ∈ l, a < m) :
    ((List.range m).filter fun n => !l.contains n).length = m - l.length := by
  have hperm : ((List.range m).filter l.contains).Perm l := by
    rw [List.perm_ext_iff_of_nodup (List.nodup_range.filter _) hl]
    intro a
    simpa using hlt a
  have hsum := List.length_eq_length_filter_add (l := List.range m) l.contains
  rw [List.length_range, hperm.length_eq] at hsum
  omega

/-- The unknown words of a first nibble, counted by what the table knows: the remainders by `m` in the list `known`. -/
theorem unknownCount_eq {hi : Nat} (m k : Nat) (known : List Nat) (hmk : m * k = 4096) (hnodup : known.Nodup)
    (hlt : ∀ a ∈ known, a < m)
    (hshape : ∀ n < 4096, isUnknown hi (hi * 4096 + n) (n % 16) (n % 256) = !known.contains (n % m)) :
    unknownCount hi = k * (m - known.length) := by
  have hcongr : ∀ n ∈ List.range 4096, unknownShape (hi * 4096 + n) = !known.contains (n % m) := fun n hn => by
    have hn := List.mem_range.mp hn
    rw [unknownShape_add hi hn, hshape n hn]
  rw [unknownCount, List.filter_congr hcongr, ← hmk, length_filter_range_mul (fun n => !known.contains n) m k,
    length_filter_range_not_contains hnodup hlt]

theorem unknownCount_format0 : unknownCount 0x0 = 4094 :=
  unknownCount_eq 4096 1 [0xE0, 0xEE] (by decide) (by decide) (by decide) fun n hn => by
    rw [Bool.eq_iff_iff]
    simp [isUnknown, Nat.mod_eq_of_lt hn]

theorem unknownCount_skipEqReg : unknownCount 0x5 = 3840 :=
  unknownCount_eq 16 256 [0x0] (by decide) (by decide) (by decide) fun n _ => by
    rw [Bool.eq_iff_iff]
    simp [isUnknown]

theorem not_contains_known_alu : ∀ lo < 16, ([0x8, 0x9, 0xA, 0xB, 0xC, 0xD, 0xF].contains lo) =
    !([0x0, 0x1, 0x2, 0x3, 0x4, 0x5, 0x6, 0x7, 0xE].contains lo) := by decide

theorem unknownCount_alu : unknownCount 0x8 = 1792 :=
  unknownCount_eq 16 256 [0x0, 0x1, 0x2, 0x3, 0x4, 0x5, 0x6, 0x7, 0xE] (by decide) (by decide) (by decide)
    fun n _ => by
      rw [← not_contains_known_alu _ (Nat.mod_lt n (by decide))]
      simp [isUnknown]

theorem unknownCount_skipNeReg : unknownCount 0x9 = 3840 :=
  unknownCount_eq 16 256 [0x0] (by decide) (by decide) (by decide) fun n _ => by
    rw [Bool.eq_iff_iff]
    simp [isUnknown]

theorem unknownCount_key : unknownCount 0xE = 4064 :=
  unknownCount_eq 256 16 [0x9E, 0xA1] (by decide) (by decide) (by decide) fun n _ => by simp [isUnknown]

theorem unknownCount_misc : unknownCount 0xF = 3952 :=
  unknownCount_eq 256 16 [0x07, 0x0A, 0x15, 0x18, 0x1E, 0x29, 0x33, 0x55, 0x65] (by decide) (by decide) (by decide)
    fun n _ => by simp [isUnknown]

/-- The other ten first nibbles have no unknown word. -/
theorem unknownCount_other {hi : Nat} (hhi : hi ∉ [0x0, 0x5, 0x8, 0x9, 0xE, 0xF]) : unknownCount hi = 0 := by
  rw [unknownCount, List.length_eq_zero_iff, List.filter_eq_nil_iff]
  intro n hn
  rw [unknownShape_add hi (List.mem_range.mp hn)]
  simp_all [isUnknown]

/-- Settles O5: the shapes by the arms of the decoder (`decode_error_iff`), the counts by the operand digits that
repeat in each block of 4096 words. -/
theorem unknownWordsAreTheListedOnes : Obligations.UnknownWordsAreTheListedOnes := by
  unfold Obligations.UnknownWordsAreTheListedOnes
  intro shape count
  have hcount : count = unknownCount := rfl
  rw [hcount]
  refine ⟨decode_error_iff, fun s w hrun hf hw hshape => ?_, unknownCount_format0, unknownCount_skipEqReg, unknownCount_alu,
    unknownCount_skipNeReg, unknownCount_key, unknownCount_misc, fun hi _ hhi => unknownCount_other hhi⟩
  obtain ⟨e, he⟩ := (decode_error_iff w).mpr hshape
  rw [decode_error he] at he
  exact Machine.step_of_unknown hrun hf hw he

/-- Settles O1: the decoder evaluates each word. -/
theorem wordsWrittenOutDecode : Obligations.WordsWrittenOutDecode := by
  unfold Obligations.WordsWrittenOutDecode
  decide

end Sys2Proof

/-! PROOFS. The family of 40_engine.md: the checks of STEP in their order (R103), its random byte (R103, R171), the
suspension (R106) and the halt (R107). -/

namespace Sys2Proof.Machine

/-! ### The shared forms of the host's operations -/

theorem State.unlessHalted_of_halted {s : State} (h : s.halt ≠ none) (t : State) : s.unlessHalted t = s :=
  if_pos (Option.isSome_iff_ne_none.mpr h)

theorem State.unlessHalted_of_not_halted {s : State} (h : s.halt = none) (t : State) : s.unlessHalted t = t :=
  if_neg (by simp [h])

/-- LOAD begun in a state that is not halted: it halts in its pre-state, or replaces the memory and nothing else. -/
theorem loadOp_cases {s : State} (h : s.halt = none) (bytes : List Byte) :
    (∃ e, loadOp bytes s = s.raiseHalt e) ∨ ∃ m, loadOp bytes s = s.setMem m := by
  rw [loadOp, State.unlessHalted_of_not_halted h]
  rcases s.commit_cases (loadImage s.mem bytes) s.setMem with ⟨e, -, heq⟩ | ⟨m, -, heq⟩
  · exact .inl ⟨e, heq⟩
  · exact .inr ⟨m, heq⟩

/-- An image that fits stands in memory from 0x200 upwards (70_reset_and_hazards.md R341). -/
theorem loadImage_ok (m : Memory) {bytes : List Byte} (h : bytes.length ≤ maxImage) :
    ∃ m', loadImage m bytes = .ok m' ∧ ∀ j (hj : j < bytes.length), m'.read (progBase + j) = bytes[j] := by
  have hfit : progBase + bytes.length ≤ memSize := by simp only [progBase, maxImage, memSize] at *; omega
  obtain ⟨m', hw, -, hread⟩ := writeBytes_ok m progBase bytes (.inr hfit)
  refine ⟨m', by rw [loadImage, if_neg (by omega), hw], fun j hj => ?_⟩
  rw [hread, dif_pos (by omega)]
  simp

/-- A PRESS while suspended sets the key and resolves the wait (45_input.md R261). -/
theorem pressOp_of_wait {s : State} {x : RegIdx} (hh : s.halt = none) (hw : s.wait = some x) (k : KeyCode) :
    pressOp k s = (s.setKey k true).resolveWait x k := by
  rw [pressOp, State.unlessHalted_of_not_halted hh, hw]

/-- A countdown takes one off and stops at 0 (46_timers.md R290). -/
theorem countDown_toNat (b : Byte) : (countDown b).toNat = b.toNat - 1 := by
  unfold countDown
  split <;> bv_omega

/-! ### STEP with its random byte -/

/-- STEP(r) is a step between two changes of the model's random fields. -/
theorem stepWith_of_step {r : Byte} {s t : State} (h : step (s.setRandom [r] s.draws) = .next t) :
    stepWith r s = .next (t.setRandom s.randIn s.draws) := by
  rw [stepWith, h]

theorem exists_step_of_stepWith {r : Byte} {s t : State} (h : stepWith r s = .next t) :
    ∃ t', step (s.setRandom [r] s.draws) = .next t' ∧ t = t'.setRandom s.randIn s.draws := by
  unfold stepWith at h
  split at h <;> cases h
  next t' hstep => exact ⟨t', hstep, rfl⟩

theorem stepWith_of_not_running (r : Byte) {s : State} (h : ¬ s.running) : stepWith r s = .next s := by
  have hstep := step_of_not_running (s.setRandom [r] s.draws) h
  rw [stepWith_of_step hstep]
  rfl

/-! ### The halt (40_engine.md R107) -/

/-- The halt that was raised is the one recorded. -/
theorem eq_raiseHalt_of_halt {s t : State} {e h : Halt} (he : t = s.raiseHalt e) (ht : t.halt = some h) :
    t = s.raiseHalt h := by
  subst he
  cases ht
  rfl

/-- A step that ends halted has set `H` and nothing else: the fetch, the decode or the instruction raised it. -/
theorem eq_raiseHalt_of_step {s t : State} {h : Halt} (hs : s.halt = none) (hstep : step s = .next t)
    (ht : t.halt = some h) : t = s.raiseHalt h := by
  by_cases hrun : s.running
  · rcases step_cases hrun hstep with ⟨i, -, -, hexec⟩ | ⟨e, he, -⟩
    · rcases ends_of_exec hexec with ⟨e, -, he⟩ | hc
      · exact eq_raiseHalt_of_halt he ht
      · simp [hc.halt, hs] at ht
    · exact eq_raiseHalt_of_halt he ht
  · rw [step_of_not_running s hrun] at hstep
    cases hstep
    simp [hs] at ht

theorem eq_raiseHalt_of_stepWith {s t : State} {r : Byte} {h : Halt} (hs : s.halt = none)
    (hstep : stepWith r s = .next t) (ht : t.halt = some h) : t = s.raiseHalt h := by
  obtain ⟨t', hstep', rfl⟩ := exists_step_of_stepWith hstep
  rw [eq_raiseHalt_of_step (s := s.setRandom [r] s.draws) hs hstep' ht]
  rfl

/-- Only LOAD and STEP can halt. -/
theorem eq_raiseHalt_of_apply {op : HostOp} {s t : State} {h : Halt} (hs : s.halt = none) (hop : op.apply s = .next t)
    (ht : t.halt = some h) : t = s.raiseHalt h := by
  cases op with
  | step r => exact eq_raiseHalt_of_stepWith hs hop ht
  | load bytes =>
    cases hop
    rcases loadOp_cases hs bytes with ⟨e, he⟩ | ⟨m, hm⟩
    · exact eq_raiseHalt_of_halt he ht
    · simp [hm, hs] at ht
  | reset =>
    cases hop
    cases ht
  | tick =>
    cases hop
    simp [tickOp, State.unlessHalted_of_not_halted hs, hs] at ht
  | release k =>
    cases hop
    simp [releaseOp, State.unlessHalted_of_not_halted hs, hs] at ht
  | press k =>
    cases hop
    rw [pressOp, State.unlessHalted_of_not_halted hs] at ht
    split at ht <;> simp [State.resolveWait, hs] at ht

theorem apply_of_halted {op : HostOp} {s : State} (hs : s.halt ≠ none) (hop : op ≠ .reset) :
    op.apply s = .next s := by
  cases op with
  | reset => exact absurd rfl hop
  | step r => exact stepWith_of_not_running r fun hrun => hs hrun.1
  | load _ | tick | press _ | release _ => exact congrArg Host.Outcome.next (State.unlessHalted_of_halted hs _)

/-- Settles O16: what halts is `State.raiseHalt` of the pre-state, and every operation but RESET asks first whether
the state is halted. -/
theorem haltKeepsThePreStateAndSticks : Obligations.HaltKeepsThePreStateAndSticks :=
  ⟨fun _ _ _ _ hs hop ht => eq_raiseHalt_of_apply hs hop ht,
    fun _ _ _ hs hstep ht => eq_raiseHalt_of_step hs hstep ht,
    fun _ _ hs hop => apply_of_halted hs hop,
    fun s hs => step_of_not_running s fun hrun => hs hrun.1,
    fun s => ⟨resetOp s, rfl, rfl⟩⟩

/-! ### The checks of STEP in their order (40_engine.md R103) -/

theorem step_of_not_fetchable {s : State} (hrun : s.running) (hf : ¬ s.fetchable) :
    step s = .next (s.raiseHalt (.fetchOutOfRange s.pc)) := by
  have hi : fetchInstr s = .error (.fetchOutOfRange s.pc) := by rw [fetchInstr, fetchWord_error s hf]
  rw [step_of_running s hrun, hi]

/-- Settles O12: one law of STEP per branch of the pseudocode. -/
theorem stepFollowsItsPseudocode : Obligations.StepFollowsItsPseudocode := by
  intro s
  refine ⟨fun hh => step_of_not_running s fun hrun => hh hrun.1,
    fun _ hw => step_of_not_running s fun hrun => hw hrun.2,
    fun hrun hpast => step_of_not_fetchable hrun (Nat.not_le.mpr hpast),
    fun hrun hf w hw => ⟨fun e he => ?_, fun i hi => ?_⟩⟩
  · rw [decode_error he] at he
    exact step_of_unknown hrun hf hw he
  · exact step_of_fetchInstr hrun (fetchInstr_of_numberAtPc hf hw hi)

theorem decode_of_decodeBytes {hi lo : Byte} {rest rest' : List Byte} {i : Instr}
    (h : decodeBytes (hi :: lo :: rest) = .ok (i, rest')) : decode (concatBytes hi lo) = .ok i := by
  cases hd : decode (concatBytes hi lo) with
  | ok j =>
    obtain ⟨rfl, -⟩ : j = i ∧ rest = rest' := by simpa [decodeBytes, hd] using h
    rfl
  | error e => simp [decodeBytes, hd] at h

/-- Settles O11: the two bytes at PC, put together, are the number fetched. -/
theorem stepExecutesTheDecodedInstruction : Obligations.StepExecutesTheDecodedInstruction := by
  intro s i rest hrun hf hbytes
  exact step_of_fetchInstr hrun (fetchInstr_of_numberAtPc hf (concatBytes_toNat _ _) (decode_of_decodeBytes hbytes))

/-! ### The random byte of a STEP (40_engine.md R103, 42_alu.md R171) -/

/-- Every instruction but rand runs alike whatever the random fields hold, and passes them on. -/
theorem exec_setRandom_of_ne_rand {i : Instr} {s t : State} (hi : ∀ x kk, i ≠ .rand x kk) (h : exec i s = .next t)
    (l : List Byte) (n : Nat) : exec i (s.setRandom l n) = .next (t.setRandom l n) := by
  cases i with
  | rand x kk => exact absurd rfl (hi x kk)
  | ret | call _ | draw _ _ _ | bcd _ | dumpRegs _ | loadRegs _ => exact exec_setRandom rfl h l n
  | skipKeyDown _ | skipKeyUp _ =>
    cases h
    exact congrArg Host.Outcome.next (commit_setRandom s _ fun _ => rfl)
  | _ =>
    cases h
    rfl

theorem exists_next_of_step (s : State) : ∃ t, step s = .next t := by
  by_cases hrun : s.running
  · rw [step_of_running s hrun]
    cases fetchInstr s with
    | error e => exact ⟨_, rfl⟩
    | ok i =>
      obtain ⟨t, ht, -⟩ := exec_ends i s
      exact ⟨t, ht⟩
  · exact ⟨s, step_of_not_running s hrun⟩

/-- A step that executes no rand is the same step whatever the random fields hold, and passes them on. -/
theorem step_setRandom {s t : State} (hrand : s.running → ∀ x kk, fetchInstr s ≠ .ok (.rand x kk))
    (h : step s = .next t) (l : List Byte) (n : Nat) : step (s.setRandom l n) = .next (t.setRandom l n) := by
  by_cases hrun : s.running
  · have hrun' : (s.setRandom l n).running := hrun
    have hfetch : fetchInstr (s.setRandom l n) = fetchInstr s := rfl
    rw [step_of_running s hrun] at h
    rw [step_of_running _ hrun', hfetch]
    cases hi : fetchInstr s with
    | error e =>
      rw [hi] at h
      cases h
      rfl
    | ok i =>
      rw [hi] at h
      exact exec_setRandom_of_ne_rand (fun x kk hx => hrand hrun x kk (hx ▸ hi)) h l n
  · rw [step_of_not_running s hrun] at h
    cases h
    exact step_of_not_running (s.setRandom l n) hrun

/-- The answer of a STEP(r) that executes no rand does not name r: it is the step's, with the random fields put
back. -/
theorem stepWith_of_not_rand {s t : State} (hrand : s.running → ∀ x kk, fetchInstr s ≠ .ok (.rand x kk))
    (h : step s = .next t) (r : Byte) : stepWith r s = .next (t.setRandom s.randIn s.draws) := by
  rw [stepWith_of_step (step_setRandom hrand h [r] s.draws)]
  rfl

/-- Settles O14: both answers are that of `stepWith_of_not_rand`. -/
theorem onlyRandReadsTheRandomByte : Obligations.OnlyRandReadsTheRandomByte := by
  intro s r r' hrand
  obtain ⟨t, ht⟩ := exists_next_of_step s
  rw [stepWith_of_not_rand hrand ht r, stepWith_of_not_rand hrand ht r']

/-! ### The suspension (40_engine.md R106) -/

/-- While suspended, every operation keeps the wait, but PRESS and RESET, which end it. -/
theorem wait_of_apply {op : HostOp} {s t : State} {x : RegIdx} (hh : s.halt = none) (hw : s.wait = some x)
    (h : op.apply s = .next t) : t.wait = some x ∨ (t.wait = none ∧ ((∃ k, op = .press k) ∨ op = .reset)) := by
  cases op with
  | reset =>
    cases h
    exact .inr ⟨rfl, .inr rfl⟩
  | press k =>
    cases h
    rw [pressOp_of_wait hh hw]
    exact .inr ⟨rfl, .inl ⟨k, rfl⟩⟩
  | step r =>
    rw [HostOp.apply, stepWith_of_not_running r (by simp [hw])] at h
    cases h
    exact .inl hw
  | load bytes =>
    cases h
    rcases loadOp_cases hh bytes with ⟨e, he⟩ | ⟨m, hm⟩
    · exact .inl (by simpa [he] using hw)
    · exact .inl (by simpa [hm] using hw)
  | tick =>
    cases h
    exact .inl (by simpa [tickOp, State.unlessHalted_of_not_halted hh] using hw)
  | release k =>
    cases h
    exact .inl (by simpa [releaseOp, State.unlessHalted_of_not_halted hh] using hw)

/-- Settles O15: STEP by its check of the wait, the end of the wait by `wait_of_apply`, and the effects of the other
operations one by one. -/
theorem suspensionEndsOnlyAtPressOrReset : Obligations.SuspensionEndsOnlyAtPressOrReset := by
  intro s x hh hw
  have hidle : ¬ s.running := by simp [hw]
  refine ⟨step_of_not_running s hidle, fun r => stepWith_of_not_running r hidle, fun _ _ h => wait_of_apply hh hw h,
    fun k => ⟨_, rfl, ?_⟩, ⟨resetOp s, rfl, rfl⟩, fun k => ⟨_, rfl, ?_⟩, ⟨_, rfl, ?_⟩,
    fun bytes hlen => ⟨_, rfl, ?_⟩⟩
  · rw [pressOp_of_wait hh hw]
    exact ⟨rfl, by simp [State.resolveWait, State.key_setKey], by simp [State.resolveWait, keyByte]⟩
  · simp [releaseOp, State.unlessHalted_of_not_halted hh, State.key_setKey]
  · simp [tickOp, State.unlessHalted_of_not_halted hh, countDown_toNat]
  · obtain ⟨m, hm, hread⟩ := loadImage_ok s.mem hlen
    rw [loadOp, State.unlessHalted_of_not_halted hh, hm]
    exact hread

end Sys2Proof.Machine

/-! PROOFS. The family of 41_control_flow.md: the jumps (R131, R137), the skips (R133 to R136), and the stack of call
and return (R130, R132). -/

namespace Sys2Proof.Machine

/-! ### Jumps -/

/-- A jump replaces the program counter and nothing else. -/
theorem exec_jump (nnn : Addr12) (s : State) : exec (.jump nnn) s = .next (s.setPc (zextAddr nnn)) := rfl

/-- Settles O21: the decoder reads back the encoded jump, which is a `State.setPc`. -/
theorem jumpGoesToItsAddress : Obligations.JumpGoesToItsAddress := fun nnn =>
  ⟨decode_encode (i := .jump nnn) rfl, fun s => ⟨_, exec_jump nnn s, zextAddr_eq nnn, (Frame.refl _ _ s).setPc _⟩⟩

/-- Settles O19: the word at PC is the encoded jump, and the PC it sets is the PC the state has. -/
theorem selfJumpIsAFixedPoint : Obligations.SelfJumpIsAFixedPoint := by
  intro s nnn hrun hpc hlast hnum
  have hfetch : fetchInstr s = .ok (.jump nnn) :=
    fetchInstr_of_numberAtPc (by omega) ((encNNN_toNat 1 nnn (by decide)).trans hnum.symm)
      (decode_encode (i := .jump nnn) rfl)
  have htarget : zextAddr nnn = s.pc := by
    apply BitVec.eq_of_toNat_eq
    rw [zextAddr_eq, u16_toNat]
    omega
  rw [step_of_fetchInstr hrun hfetch, exec_jump, htarget]
  rfl

/-- The sum of a 12-bit address and a byte fits 16 bits, so it is exact (41_control_flow.md R137). -/
theorem zextAddr_add_zextByte_toNat (nnn : Addr12) (b : Byte) :
    (zextAddr nnn + zextByte b).toNat = nnn.toNat + b.toNat := by
  rw [zextAddr_eq, zextByte_eq, BitVec.toNat_add, u16_toNat, u16_toNat]
  omega

/-- Settles O27: the new PC is an exact sum (`zextAddr_add_zextByte_toNat`). -/
theorem indexedJumpAddsV0 : Obligations.IndexedJumpAddsV0 := fun nnn =>
  ⟨decode_encode (i := .indexedJump nnn) rfl, fun s =>
    ⟨_, rfl, zextAddr_add_zextByte_toNat nnn (s.reg 0), (Frame.refl _ _ s).setPc _⟩⟩

/-! ### Skips -/

/-- What the four skips share: an instruction that is `State.skipIf` of a test of `p` skips exactly when `p` holds, and
changes the program counter alone. -/
theorem exec_of_skipIf {i : Instr} {s : State} {c : Bool} {p : Prop} [Decidable p]
    (hexec : exec i s = .next (s.skipIf c)) (hc : c = true ↔ p) :
    ∃ t, exec i s = .next t ∧ Frame [] [] s t ∧
      t.pc = if p then u16 (s.pc.toNat + 4) else u16 (s.pc.toNat + 2) := by
  refine ⟨_, hexec, (Frame.refl _ _ s).setPc _, ?_⟩
  simp only [State.skipIf, State.setPc_pc, hc, word_add_two, word_add_four]

/-- Settles O25: both skips are `exec_of_skipIf` of their comparison. -/
theorem skipOnImmediate : Obligations.SkipOnImmediate := fun x kk =>
  ⟨decode_encode (i := .skipEqImm x kk) rfl, decode_encode (i := .skipNeImm x kk) rfl, fun _ =>
    ⟨exec_of_skipIf rfl beq_iff_eq, exec_of_skipIf rfl bne_iff_ne⟩⟩

/-- A word of format XY in a row whose last digit is 0 does not decode with another last digit (30_encoding.md R77). -/
theorem decode_encXYN_error {op n : Nat} (hop : op = 0x5 ∨ op = 0x9) (x y : RegIdx) (hpos : 0 < n) (hn : n < 16) :
    ∃ e, decode (encXYN op x y n) = .error e := by
  have hlast : BitVec.ofNat 4 n ≠ 0#4 := by bv_omega
  rcases hop with rfl | rfl <;> simp [decode, hn, hlast]

/-- Settles O26: the skips as in O25, the words that are no instruction by `decode_encXYN_error`. -/
theorem skipOnRegisters : Obligations.SkipOnRegisters := fun x y =>
  ⟨decode_encode (i := .skipEqReg x y) rfl, decode_encode (i := .skipNeReg x y) rfl,
    fun _ hpos hn => ⟨decode_encXYN_error (.inl rfl) x y hpos hn, decode_encXYN_error (.inr rfl) x y hpos hn⟩,
    fun _ => ⟨exec_of_skipIf rfl beq_iff_eq, exec_of_skipIf rfl bne_iff_ne⟩⟩

/-! ### The stack -/

/-- A two-byte access at `a` fits up to `a = 0xFFE` (20_memory.md R52). -/
theorem succ_lt_memSize {a : Nat} (h : a ≤ 0xFFE) : a + 1 < memSize := by
  show a + 1 < 0x1000
  omega

theorem memSize_le_succ {a : Nat} (h : 0xFFE < a) : memSize ≤ a + 1 := Nat.succ_le_succ h

/-- The lowest address out of range of a two-byte access at `a` that does not fit (20_memory.md R52). -/
theorem max_memSize_eq_ite {a : Nat} (h : memSize ≤ a + 1) : max a memSize = if memSize ≤ a then a else a + 1 := by
  split <;> omega

theorem writeWord_error (m : Memory) {a : Nat} (w : Word) (h : memSize ≤ a + 1) :
    writeWord m a w = .error (.memoryOutOfRange (max a memSize)) :=
  writeBytes_error m a [highByte w, lowByte w] (List.cons_ne_nil _ _) (Nat.lt_succ_of_le h)

section
variable {s : State}

/-- A return whose entry fits takes PC from it and lowers SP (41_control_flow.md R130). -/
theorem exec_ret_ok (h : s.sp.toNat + 1 < memSize) : exec .ret s =
    .next ((s.setPc (concatBytes (s.mem.read s.sp.toNat) (s.mem.read (s.sp.toNat + 1)))).setSp (s.sp - 2)) := by
  show execRet s = _
  rw [execRet, readWord_ok s.mem h, State.commit_ok]

theorem exec_ret_error (h : memSize ≤ s.sp.toNat + 1) :
    exec .ret s = .next (s.raiseHalt (.memoryOutOfRange (max s.sp.toNat memSize))) := by
  show execRet s = _
  rw [execRet, readWord_error s.mem h, State.commit_error]

/-- The state after a call of `nnn` whose stack entry fits (41_control_flow.md R132). -/
def State.afterCall (s : State) (nnn : Addr12) : State :=
  ((s.setMem (storeWord s.mem s.pushSlot.toNat (s.pc + 2))).setSp s.pushSlot).setPc (zextAddr nnn)

theorem exec_call_ok (nnn : Addr12) (h : s.pushSlot.toNat + 1 < memSize) :
    exec (.call nnn) s = .next (s.afterCall nnn) := by
  show execCall nnn s = _
  rw [execCall, writeWord_ok s.mem _ h, State.commit_ok, State.afterCall]

theorem exec_call_error (nnn : Addr12) (h : memSize ≤ s.pushSlot.toNat + 1) :
    exec (.call nnn) s = .next (s.raiseHalt (.memoryOutOfRange (max s.pushSlot.toNat memSize))) := by
  show execCall nnn s = _
  rw [execCall, writeWord_error s.mem _ h, State.commit_error]

theorem pushSlot_eq (s : State) : s.pushSlot = u16 (s.sp.toNat + 2) := word_add_two s.sp

@[simp] theorem State.afterCall_sp (nnn : Addr12) : (s.afterCall nnn).sp = s.pushSlot := rfl

@[simp] theorem State.afterCall_halt (nnn : Addr12) : (s.afterCall nnn).halt = s.halt := rfl

/-- The entry a call pushes is PC + 2, high byte at the slot; every other byte reads as before. -/
theorem State.afterCall_mem_read (nnn : Addr12) (a : Nat) : (s.afterCall nnn).mem.read a =
    if a = s.pushSlot.toNat + 1 then lowByte (s.pc + 2)
    else if a = s.pushSlot.toNat then highByte (s.pc + 2) else s.mem.read a :=
  storeWord_read s.mem s.pushSlot.toNat a (s.pc + 2)

theorem State.afterCall_mem_read_other (nnn : Addr12) {a : Nat} (ha : a ≠ s.pushSlot.toNat)
    (ha1 : a ≠ s.pushSlot.toNat + 1) : (s.afterCall nnn).mem.read a = s.mem.read a := by
  rw [State.afterCall_mem_read, if_neg ha1, if_neg ha]

end

/-- Settles O20: `exec_ret_ok` up to SP = 0xFFE, `exec_ret_error` above. -/
theorem returnPopsTheStackEntry : Obligations.ReturnPopsTheStackEntry := by
  refine ⟨decode_encode (i := .ret) rfl, fun s => ⟨fun hfit => ?_, fun hpast => ?_⟩⟩
  · refine ⟨_, exec_ret_ok (succ_lt_memSize hfit), concatBytes_toNat _ _, ?_,
      ((Frame.refl _ _ s).setPc _).setSp (.head _) _⟩
    rw [State.setSp_sp]
    apply BitVec.eq_of_toNat_eq
    rw [u16_toNat]
    bv_omega
  · have hpast := memSize_le_succ hpast
    rw [exec_ret_error hpast, max_memSize_eq_ite hpast]
    rfl

/-- Settles O22: the two bytes are those of `State.afterCall_mem_read` at the slot and after it. -/
theorem callPushesTheReturnAddress : Obligations.CallPushesTheReturnAddress := by
  refine fun nnn => ⟨decode_encode (i := .call nnn) rfl, fun s => ⟨pushSlot_eq s, fun hfit => ?_, fun hpast => ?_⟩⟩
  · refine ⟨_, exec_call_ok nnn (succ_lt_memSize hfit), ?_, ?_,
      fun a => State.afterCall_mem_read_other nnn, pushSlot_eq s, zextAddr_eq nnn,
      (((Frame.refl _ _ s).setMem (.head _) _).setSp (.tail _ (.head _)) _).setPc _⟩
    · simp [State.afterCall_mem_read, highByte_toNat]
    · simp [State.afterCall_mem_read, lowByte_toNat]
  · have hpast := memSize_le_succ hpast
    rw [exec_call_error nnn hpast, max_memSize_eq_ite hpast]
    rfl

/-- A return right after a call leaves the state before the call, but for PC and the memory that the call wrote. -/
theorem exec_ret_afterCall (nnn : Addr12) {s : State} (h : s.pushSlot.toNat + 1 < memSize) :
    exec .ret (s.afterCall nnn) = .next ((s.setMem (s.afterCall nnn).mem).setPc (s.pc + 2)) := by
  have hpop : concatBytes ((s.afterCall nnn).mem.read s.pushSlot.toNat)
      ((s.afterCall nnn).mem.read (s.pushSlot.toNat + 1)) = s.pc + 2 := by
    simp [State.afterCall_mem_read]
  have hsp : s.pushSlot - 2 = s.sp := add_sub_cancel_right s.sp 2
  rw [exec_ret_ok (by simpa using h), State.afterCall_sp, hpop, hsp]
  rfl

/-- Settles O23: the return undoes all of `State.afterCall` but the two bytes pushed (`exec_ret_afterCall`). -/
theorem callThenReturnComesBack : Obligations.CallThenReturnComesBack := by
  intro nnn s hfit
  have hfit := succ_lt_memSize hfit
  exact ⟨_, _, exec_call_ok nnn hfit, exec_ret_afterCall nnn hfit, word_add_two s.pc, rfl,
    fun a => State.afterCall_mem_read_other nnn, ((Frame.refl _ _ s).setMem (.head _) _).setPc _⟩

/-! ### Nested calls -/

theorem execMany_one (i : Instr) (s : State) : execMany i 1 s = exec i s := by
  unfold execMany
  cases exec i s <;> rfl

theorem execMany_succ_of_next {i : Instr} {s t : State} (h : exec i s = .next t) (n : Nat) :
    execMany i (n + 1) s = execMany i n t := by
  rw [execMany, h]

/-- A run of `n` executions that ends goes on from where it ended. -/
theorem execMany_add_of_next {i : Instr} {n : Nat} {s t : State} (h : execMany i n s = .next t) (k : Nat) :
    execMany i (n + k) s = execMany i k t := by
  induction n generalizing s with
  | zero =>
    cases h
    rw [Nat.zero_add]
  | succ n ih =>
    obtain ⟨u, hu, -⟩ := exec_ends i s
    rw [execMany_succ_of_next hu] at h
    rw [Nat.succ_add, execMany_succ_of_next hu, ih h]

/-- Nested calls whose stack stays in memory all complete: each raises SP by 2. -/
theorem execMany_call (nnn : Addr12) (n : Nat) (s : State) (hfit : s.sp.toNat + 2 * n ≤ 0xFFE) :
    ∃ t, execMany (.call nnn) n s = .next t ∧ t.sp.toNat = s.sp.toNat + 2 * n ∧ t.halt = s.halt := by
  induction n generalizing s with
  | zero => exact ⟨s, rfl, rfl, rfl⟩
  | succ n ih =>
    have hslot : s.pushSlot.toNat = s.sp.toNat + 2 := by
      rw [pushSlot_eq, u16_toNat]
      omega
    have hcall : exec (.call nnn) s = .next (s.afterCall nnn) :=
      exec_call_ok nnn (succ_lt_memSize (by omega))
    obtain ⟨t, ht, hsp, hhalt⟩ := ih (s.afterCall nnn) (by rw [State.afterCall_sp]; omega)
    rw [State.afterCall_sp] at hsp
    exact ⟨t, (execMany_succ_of_next hcall n).trans ht, by omega, hhalt⟩

/-- Settles O24: the calls that fit by `execMany_call`; after 175 of them SP is 0xFFE, and the next slot is 0x1000. -/
theorem stackHolds175Calls : Obligations.StackHolds175Calls := by
  intro nnn s hsp hhalt
  have hsp : s.sp.toNat = 0xEA0 := congrArg BitVec.toNat hsp
  have hcalls : ∀ n, n ≤ 175 →
      ∃ t, execMany (.call nnn) n s = .next t ∧ t.sp.toNat = 0xEA0 + 2 * n ∧ t.halt = none := by
    intro n hn
    simpa only [hsp, hhalt] using execMany_call nnn n s (by omega)
  obtain ⟨t, ht, htop, -⟩ := hcalls 175 le_rfl
  have hslot : t.pushSlot.toNat = memSize := by
    rw [pushSlot_eq, u16_toNat, htop]
    rfl
  refine ⟨hcalls, t.raiseHalt (.memoryOutOfRange memSize), ?_, htop, rfl⟩
  rw [execMany_add_of_next ht 1, execMany_one, exec_call_error nnn (by omega), hslot, max_self]

end Sys2Proof.Machine


/-! PROOFS. The family of 42_alu.md: the loads, add-imm and the logic (R160 to R165), the flag writers (R166 to R170),
and rand (R171). -/

namespace Sys2Proof.Machine

section
variable {i : Instr} {s : State} {x y : RegIdx} {b : Byte} {c : Bool}

/-! ### Writers of Vx alone -/

/-- What the writers of one register share: Vx is the result, PC advances, and nothing else changes. -/
theorem exec_of_setReg (hexec : exec i s = .next (s.setReg x b).advance) :
    ∃ t, exec i s = .next t ∧ t.reg x = b ∧ t.pc = u16 (s.pc.toNat + 2) ∧ Frame [x] [] s t :=
  ⟨_, hexec, State.reg_setReg_same s x b, word_add_two s.pc, ((Frame.refl _ _ s).setReg (.head _) b).advance⟩

/-- An instruction whose result is, bit by bit, the connective `bit` of Vx and Vy. -/
theorem exec_of_bitwise (bit : Bool → Bool → Bool) (hexec : exec i s = .next (s.setReg x b).advance)
    (hbit : ∀ k, b.getLsbD k = bit ((s.reg x).getLsbD k) ((s.reg y).getLsbD k)) :
    ∃ t, exec i s = .next t ∧ t.pc = u16 (s.pc.toNat + 2) ∧ Frame [x] [] s t ∧
      ∀ k, (t.reg x).getLsbD k = bit ((s.reg x).getLsbD k) ((s.reg y).getLsbD k) := by
  obtain ⟨t, ht, rfl, hpc, hframe⟩ := exec_of_setReg hexec
  exact ⟨t, ht, hpc, hframe, hbit⟩

/-- A word `8xyf` in the pattern's order, the digit `f` added to the opcode, is the encoded one (30_encoding.md R74). -/
theorem decode_aluWord (f : Nat) (henc : encode i = encXYN 0x8 x y f) (hwf : i.wf = true) :
    decode (u16 (0x8000 + f + x.val * 256 + y.val * 16)) = .ok i := by
  have hword : u16 (0x8000 + f + x.val * 256 + y.val * 16) = encode i := by
    rw [henc, encXYN, wordOfNibbles]
    congr 1
    omega
  rw [hword, decode_encode hwf]

end

/-- Settles O29: load-imm is `exec_of_setReg` of its byte. -/
theorem loadImmWritesItsByte : Obligations.LoadImmWritesItsByte := fun x kk =>
  ⟨decode_encode (i := .loadImm x kk) rfl, fun _ => exec_of_setReg rfl⟩

/-- Settles O30: add-imm is `exec_of_setReg` of the truncated sum, so VF is in its frame unless x = 15. -/
theorem addImmWrapsWithoutFlag : Obligations.AddImmWrapsWithoutFlag := fun x kk =>
  ⟨decode_encode (i := .addImm x kk) rfl, fun _ => exec_of_setReg rfl⟩

/-- Settles O31: the move by `exec_of_setReg`, the logic by `exec_of_bitwise` of its connective. -/
theorem moveAndLogicWriteVxAlone : Obligations.MoveAndLogicWriteVxAlone := fun _ _ =>
  ⟨decode_aluWord 0x0 rfl rfl, decode_aluWord 0x1 rfl rfl, decode_aluWord 0x2 rfl rfl, decode_aluWord 0x3 rfl rfl,
    fun _ => ⟨exec_of_setReg rfl, exec_of_bitwise or rfl fun _ => BitVec.getLsbD_or,
      exec_of_bitwise and rfl fun _ => BitVec.getLsbD_and, exec_of_bitwise xor rfl fun _ => BitVec.getLsbD_xor⟩⟩

/-! ### Flag writers (42_alu.md R172) -/

/-- The flag of a comparison, as the byte VF receives. -/
theorem flagByte_decide (p : Prop) [Decidable p] : flagByte (decide p) = if p then 1 else 0 := by
  simp only [flagByte, decide_eq_true_eq]

theorem flagByte_toNat (c : Bool) : (flagByte c).toNat = c.toNat := by cases c <;> rfl

theorem lowBitFlag_toNat (a : Byte) : (lowBitFlag a).toNat = a.toNat % 2 := by
  rw [lowBitFlag, BitVec.getLsbD, Nat.toNat_testBit, pow_zero, Nat.div_one]

theorem highBitFlag_toNat (a : Byte) : (highBitFlag a).toNat = a.toNat / 128 := by
  rw [highBitFlag, BitVec.getLsbD, Nat.toNat_testBit]
  omega

section
variable {i : Instr} {s : State} {x : RegIdx}

/-- What the flag writers share: VF ends as the flag for every `x`, and Vx as the result where it is not VF. -/
theorem exec_of_setRegFlag {b : Byte} {c : Bool} (hexec : exec i s = .next (s.setRegFlag x b c).advance) :
    ∃ t, exec i s = .next t ∧ t.reg VF = flagByte c ∧ (x ≠ VF → t.reg x = b) ∧
      t.pc = u16 (s.pc.toNat + 2) ∧ Frame [x, VF] [] s t := by
  refine ⟨_, hexec, ?_, fun hx => ?_, word_add_two s.pc,
    ((Frame.refl _ _ s).setRegFlag (.head _) (.tail _ (.head _)) b c).advance⟩
  · rw [State.advance_reg, State.reg_setRegFlag, if_pos rfl]
  · rw [State.advance_reg, State.reg_setRegFlag, if_neg hx, if_pos rfl]

/-- A subtraction `m - n`: sub-reg of Vx and Vy, subn-reg of Vy and Vx (42_alu.md R167, R168). -/
theorem exec_of_subtraction {m n : Byte} (hexec : exec i s =
      .next (s.setRegFlag x (u8 (m.toNat + 256 - n.toNat)) (greaterFlag m n)).advance) :
    ∃ t, exec i s = .next t ∧ t.reg VF = (if m.toNat > n.toNat then 1 else 0) ∧
      (x ≠ VF → (t.reg x).toNat = (m.toNat + 256 - n.toNat) % 256) ∧
      t.pc = u16 (s.pc.toNat + 2) ∧ Frame [x, VF] [] s t := by
  obtain ⟨t, ht, hflag, hres, hpc, hframe⟩ := exec_of_setRegFlag hexec
  exact ⟨t, ht, hflag.trans (flagByte_decide _), fun hx => by rw [hres hx, u8_toNat], hpc, hframe⟩

/-- A shift, its flag and its result given as numbers (42_alu.md R169, R170). -/
theorem exec_of_shift {b : Byte} {c : Bool} {flag result : Nat}
    (hexec : exec i s = .next (s.setRegFlag x b c).advance) (hc : c.toNat = flag) (hb : b.toNat = result) :
    ∃ t, exec i s = .next t ∧ (t.reg VF).toNat = flag ∧ (x ≠ VF → (t.reg x).toNat = result) ∧
      t.pc = u16 (s.pc.toNat + 2) ∧ Frame [x, VF] [] s t := by
  obtain ⟨t, ht, hflag, hres, hpc, hframe⟩ := exec_of_setRegFlag hexec
  exact ⟨t, ht, by rw [hflag, flagByte_toNat, hc], fun hx => by rw [hres hx, hb], hpc, hframe⟩

end

/-- Settles O32: add-reg is `exec_of_setRegFlag` of the truncated sum and the carry. -/
theorem addRegSumAndCarry : Obligations.AddRegSumAndCarry := by
  refine fun x y => ⟨decode_aluWord 0x4 rfl rfl, fun s => ?_⟩
  obtain ⟨t, ht, hflag, hrest⟩ := exec_of_setRegFlag (i := .addReg x y) (s := s) rfl
  exact ⟨t, ht, hflag.trans (flagByte_decide _), hrest⟩

/-- Settles O33: both are `exec_of_subtraction`, with minuend and subtrahend exchanged. -/
theorem subtractionsAndStrictFlag : Obligations.SubtractionsAndStrictFlag := fun _ _ =>
  ⟨decode_aluWord 0x5 rfl rfl, decode_aluWord 0x7 rfl rfl, fun _ => ⟨exec_of_subtraction rfl, exec_of_subtraction rfl⟩⟩

/-- Settles O34: both are `exec_of_shift`; the bit shifted out is the remainder of the halving and the quotient by 128,
and no part of either shift reads y. -/
theorem shiftsAndTheBitShiftedOut : Obligations.ShiftsAndTheBitShiftedOut := by
  refine fun x y => ⟨decode_aluWord 0x6 rfl rfl, decode_aluWord 0xE rfl rfl, fun s => ⟨?_, ?_⟩⟩
  · refine exec_of_shift rfl (lowBitFlag_toNat (s.reg x)) ?_
    rw [BitVec.toNat_ushiftRight, Nat.shiftRight_eq_div_pow, pow_one]
  · refine exec_of_shift rfl (highBitFlag_toNat (s.reg x)) ?_
    rw [BitVec.toNat_shiftLeft, Nat.shiftLeft_eq, pow_one]

/-! ### rand -/

/-- rand writes the masked byte of the next draw, and uses that byte up (42_alu.md R171). -/
theorem exec_rand (x : RegIdx) (kk : Byte) (s : State) :
    ∃ t, exec (.rand x kk) s = .next t ∧ t.reg x = s.randomByte &&& kk ∧ t.pc = u16 (s.pc.toNat + 2) ∧
      Frame [x] [.random] s t := by
  refine ⟨_, rfl, State.reg_setReg_same _ x _, ?_, (((Frame.refl _ _ s).drawn (.head _)).setReg (.head _) _).advance⟩
  rw [State.advance_pc, State.setReg_pc, State.drawn_pc, word_add_two]

/-- STEP(r) hands over its byte and puts the random fields back, so what is framed but for them is framed whole
(40_engine.md R103). -/
theorem Frame.restoreRandom {regs : List RegIdx} {s t : State} {l : List Byte} {n : Nat}
    (h : Frame regs [.random] (s.setRandom l n) t) : Frame regs [] s (t.setRandom s.randIn s.draws) := by
  refine ⟨h.1, fun p _ => ?_⟩
  have hsame : p ≠ .random → p.same (s.setRandom l n) t := fun hp => h.2 p (by simpa using hp)
  cases p with
  | random => exact ⟨rfl, rfl⟩
  | _ => exact hsame nofun

/-- Settles O35: the next draw by `exec_rand`; a STEP(r) is `exec_rand` in the state that holds `r` as its only byte. -/
theorem randMasksTheRandomByte : Obligations.RandMasksTheRandomByte := by
  refine fun x kk => ⟨decode_encode (i := .rand x kk) rfl, exec_rand x kk, fun s r hrun hf hnum => ?_⟩
  have hword : (encode (.rand x kk)).toNat = s.numberAtPc :=
    (encXKK_toNat 0xC x kk.toNat (by decide) kk.isLt).trans hnum.symm
  have hstep : step (s.setRandom [r] s.draws) = exec (.rand x kk) (s.setRandom [r] s.draws) :=
    step_of_fetchInstr hrun (fetchInstr_of_numberAtPc hf hword (decode_encode rfl))
  obtain ⟨t, ht, hreg, hpc, hframe⟩ := exec_rand x kk (s.setRandom [r] s.draws)
  exact ⟨_, stepWith_of_step (hstep.trans ht), hreg, hpc, hframe.restoreRandom⟩

end Sys2Proof.Machine


/-! PROOFS. The family of 43_index_memory.md: the three writers of I (R200 to R202), the stores bcd and dump-regs (R203,
R204), and load-regs (R205). -/

namespace Sys2Proof.Machine

/-- A word `Fxkk` in the pattern's order, the low byte `f` added to the opcode, is the encoded one (30_encoding.md
R74). -/
theorem decode_miscWord {i : Instr} {x : RegIdx} (f : Nat) (henc : encode i = encXKK 0xF x f) (hwf : i.wf = true) :
    decode (u16 (0xF000 + f + x.val * 256)) = .ok i := by
  have hword : u16 (0xF000 + f + x.val * 256) = encode i := by
    rw [henc, encXKK]
    congr 1
    omega
  rw [hword, decode_encode hwf]

/-! ### The index register -/

/-- What the writers of I share: I is the result, PC advances, and nothing else changes. -/
theorem exec_of_setIndex {i : Instr} {s : State} {a : Word} (hexec : exec i s = .next (s.setIndex a).advance) :
    ∃ t, exec i s = .next t ∧ t.i = a ∧ t.pc = u16 (s.pc.toNat + 2) ∧ Frame [] [.index] s t :=
  ⟨_, hexec, rfl, word_add_two s.pc, ((Frame.refl _ _ s).setIndex (.head _) a).advance⟩

/-- The sum of add-index wraps at 16 bits (43_index_memory.md R201). -/
theorem word_add_zextByte (a : Word) (b : Byte) : a + zextByte b = u16 (a.toNat + b.toNat) := by
  apply BitVec.eq_of_toNat_eq
  simp [zextByte_eq]

/-- Five bytes of a glyph for each value of a byte: the product fits 16 bits, so it is exact (43_index_memory.md
R202). -/
theorem zextByte_mul_five_toNat (b : Byte) : (zextByte b * 5).toNat = b.toNat * 5 := by
  rw [zextByte_eq, BitVec.toNat_mul, u16_toNat]
  bv_omega

/-- Settles O40: each is `exec_of_setIndex` of its word, taken as a number. -/
theorem indexRegisterInstructions : Obligations.IndexRegisterInstructions := by
  refine ⟨fun nnn => ⟨decode_encode (i := .setIndex nnn) rfl, fun s => ?_⟩, fun x =>
    ⟨decode_miscWord 0x1E rfl rfl, decode_miscWord 0x29 rfl rfl, fun s => ⟨?_, ?_⟩⟩⟩
  · rw [← zextAddr_eq]
    exact exec_of_setIndex rfl
  · rw [← word_add_zextByte]
    exact exec_of_setIndex rfl
  · obtain ⟨t, ht, hi, hrest⟩ := exec_of_setIndex (i := .spriteAddr x) (s := s) rfl
    exact ⟨t, ht, by rw [hi, zextByte_mul_five_toNat], hrest⟩

/-! ### Accesses from I that do not fit -/

/-- An access from `a` that reaches past memory halts the instruction in its pre-state, at the lowest address out of
range (20_memory.md R52, 40_engine.md R107). -/
theorem exec_of_access_past_memory {α : Type} {i : Instr} {s : State} {a : Nat} {r : Except Halt α} {k : α → State}
    (hexec : exec i s = .next (s.commit r k)) (hr : r = .error (.memoryOutOfRange (max a memSize))) :
    exec i s = .next { s with halt := some (.memoryOutOfRange (if 0x1000 ≤ a then a else 0x1000)) } := by
  rw [hexec, hr, State.commit_error, max_comm, max_def]
  rfl

/-! ### The stores -/

/-- What the stores that complete share: the memory is the written one, PC advances, and nothing else changes. -/
theorem advance_setMem_frame (s : State) (m : Memory) :
    (s.setMem m).advance.pc = u16 (s.pc.toNat + 2) ∧ Frame [] [.memory] s (s.setMem m).advance :=
  ⟨word_add_two s.pc, ((Frame.refl _ _ s).setMem (.head _) m).advance⟩

theorem u8_toNat_of_lt {v : Nat} (h : v < 256) : (u8 v).toNat = v := (u8_toNat v).trans (Nat.mod_eq_of_lt h)

/-- A bcd that fits stores its three digits from I, changes no other byte, and advances (43_index_memory.md R203). -/
theorem exec_bcd_ok (s : State) (x : RegIdx) (h : s.base + 2 < memSize) :
    ∃ m, exec (.bcd x) s = .next (s.setMem m).advance ∧
      m.read s.base = u8 ((s.reg x).toNat / 100) ∧
      m.read (s.base + 1) = u8 ((s.reg x).toNat / 10 % 10) ∧
      m.read (s.base + 2) = u8 ((s.reg x).toNat % 10) ∧
      ∀ a, a < s.base ∨ s.base + 2 < a → m.read a = s.mem.read a := by
  have hlen : (bcdDigits (s.reg x)).length = 3 := rfl
  obtain ⟨m, hw, -, hread⟩ := writeBytes_ok s.mem s.base (bcdDigits (s.reg x)) (.inr (by omega))
  have hexec : exec (.bcd x) s = execBcd x s := rfl
  refine ⟨m, by rw [hexec, execBcd, hw, State.commit_ok], ?_, ?_, ?_, fun a ha => ?_⟩
  · simp [hread, bcdDigits]
  · simp [hread, bcdDigits]
  · simp [hread, bcdDigits]
  · rw [hread, dif_neg (by omega)]

/-- Settles O41: the digits are below 256, so the bytes stored are the digits themselves. -/
theorem bcdStoresThreeDigits : Obligations.BcdStoresThreeDigits := by
  refine fun x => ⟨decode_miscWord 0x33 rfl rfl, fun s => ⟨rfl, fun hfit => ?_, fun hpast => ?_⟩⟩
  · obtain ⟨m, hexec, hhundreds, htens, hunits, hother⟩ := exec_bcd_ok s x (Nat.lt_succ_of_le hfit)
    exact ⟨_, hexec, (congrArg BitVec.toNat hhundreds).trans (u8_toNat_of_lt (by omega)),
      (congrArg BitVec.toNat htens).trans (u8_toNat_of_lt (by omega)),
      (congrArg BitVec.toNat hunits).trans (u8_toNat_of_lt (by omega)), hother, advance_setMem_frame s m⟩
  · exact exec_of_access_past_memory rfl
      (writeBytes_error s.mem s.base (bcdDigits (s.reg x)) (List.cons_ne_nil _ _) (Nat.succ_lt_succ hpast))

/-- Settles O42: `exec_dumpRegs_ok` where the x + 1 bytes fit, the error of the write where they do not. -/
theorem dumpRegsStoresV0ToVx : Obligations.DumpRegsStoresV0ToVx := by
  refine fun x => ⟨decode_miscWord 0x55 rfl rfl, fun s => ⟨rfl, fun hfit => ?_, fun hpast => ?_⟩⟩
  · obtain ⟨m, hexec, hstored, hother⟩ := exec_dumpRegs_ok s x (Nat.lt_succ_of_le hfit)
    exact ⟨_, hexec, hstored, hother, advance_setMem_frame s m⟩
  · have hlen := regsUpTo_length s x
    have hne : s.regsUpTo x ≠ [] := List.ne_nil_of_length_eq_add_one hlen
    have hlong : memSize < s.base + (s.regsUpTo x).length := by
      rw [hlen]
      exact Nat.succ_lt_succ hpast
    exact exec_of_access_past_memory rfl (writeBytes_error s.mem s.base _ hne hlong)

/-! ### The load -/

/-- The state after a load of V0 to Vx whose bytes all exist (43_index_memory.md R205). -/
def State.afterLoadRegs (s : State) (x : RegIdx) : State :=
  (s.setRegs (fillRegs s.v 0 ((List.range (x.val + 1)).map fun j => s.mem.read (s.base + j)))).advance

theorem exec_loadRegs_ok (s : State) (x : RegIdx) (h : s.base + x.val < memSize) :
    exec (.loadRegs x) s = .next (s.afterLoadRegs x) := by
  have hexec : exec (.loadRegs x) s = execLoadRegs x s := rfl
  rw [hexec, execLoadRegs, readBytes_ok s.mem s.base (x.val + 1) (.inr h), State.commit_ok, State.afterLoadRegs]

/-- V0 to Vx hold the bytes from I, and the registers above x their old values. -/
theorem State.afterLoadRegs_reg (s : State) (x j : RegIdx) :
    (s.afterLoadRegs x).reg j = if j ≤ x then s.mem.read (s.base + j.val) else s.reg j := by
  have hj : j ≤ x ↔ 0 ≤ j.val ∧ j.val < 0 + ((List.range (x.val + 1)).map fun j => s.mem.read (s.base + j)).length := by
    rw [List.length_map, List.length_range, Fin.le_def]
    omega
  refine (fillRegs_getElem _ _ _ _ j.isLt).trans ?_
  by_cases hle : j ≤ x
  · rw [if_pos hle, dif_pos (hj.mp hle)]
    simp
  · rw [if_neg hle, dif_neg (hj.not.mp hle)]
    rfl

theorem State.afterLoadRegs_frame (s : State) (x : RegIdx) :
    Frame ((List.finRange 16).filter fun j => j ≤ x) [] s (s.afterLoadRegs x) := by
  refine ((Frame.refl _ _ s).setRegs _ fun j hj => ?_).advance
  have hlt : ¬ j ≤ x := by simpa using hj
  exact (s.afterLoadRegs_reg x j).trans (if_neg hlt)

/-- Settles O43: `State.afterLoadRegs` where the x + 1 bytes exist, the error of the read where they do not. -/
theorem loadRegsFillsV0ToVx : Obligations.LoadRegsFillsV0ToVx := by
  refine fun x => ⟨decode_miscWord 0x65 rfl rfl, fun s => ⟨fun hfit => ?_, fun hpast => ?_⟩⟩
  · exact ⟨_, exec_loadRegs_ok s x (Nat.lt_succ_of_le hfit), fun j hj => (s.afterLoadRegs_reg x j).trans (if_pos hj),
      word_add_two s.pc, s.afterLoadRegs_frame x⟩
  · exact exec_of_access_past_memory rfl
      (readBytes_error s.mem s.base (x.val + 1) x.val.succ_pos (Nat.succ_lt_succ hpast))

/-- Settles O44: the dump leaves I alone, so the load reads each register at the place where the dump stored it. -/
theorem loadRegsUndoesDumpRegs : Obligations.LoadRegsUndoesDumpRegs := by
  intro x s v hfit
  have hfit : s.base + x.val < memSize := Nat.lt_succ_of_le hfit
  obtain ⟨m, hdump, hstored, -⟩ := exec_dumpRegs_ok s x hfit
  refine ⟨_, _, hdump, exec_loadRegs_ok ((s.setMem m).advance.setRegs v) x hfit, fun j hj => ?_, fun j hj => ?_, rfl⟩
  · rw [State.afterLoadRegs_reg, if_pos hj]
    exact hstored j hj
  · rw [State.afterLoadRegs_reg, if_neg hj.not_ge]
    rfl

end Sys2Proof.Machine


/-! PROOFS. The family of 44_display.md: the sprite (R232, R235), clear-screen (R231, R233), and draw (R234). -/

namespace Sys2Proof.Machine

/-! ### Drawing, pixel by pixel -/

/-- What drawing the pixels of `target`, each of them once, does to the display and to the collision so far
(44_display.md R232). -/
structure Draws (target : ColIdx → RowIdx → Prop) (a b : Display × Bool) : Prop where
  flips : ∀ {col row}, target col row → b.1.get col row = !a.1.get col row
  keeps : ∀ {col row}, ¬ target col row → b.1.get col row = a.1.get col row
  collides : b.2 = true ↔ a.2 = true ∨ ∃ col row, target col row ∧ a.1.get col row = true

section
variable {P Q : ColIdx → RowIdx → Prop} {a b c : Display × Bool}

theorem Draws.congr (h : Draws P a b) (hPQ : ∀ col row, P col row ↔ Q col row) : Draws Q a b := by
  obtain rfl : P = Q := funext₂ fun col row => propext (hPQ col row)
  exact h

theorem Draws.empty (hP : ∀ col row, ¬ P col row) : Draws P a a where
  flips h := absurd h (hP _ _)
  keeps _ := rfl
  collides := by simp [hP]

/-- Drawing in two parts that share no pixel: the second part sees each of its pixels as it was before the first. -/
theorem Draws.trans (hab : Draws P a b) (hbc : Draws Q b c) (hdisj : ∀ col row, P col row → ¬ Q col row) :
    Draws (fun col row => P col row ∨ Q col row) a c where
  flips := by
    rintro col row (hP | hQ)
    · rw [hbc.keeps (hdisj col row hP), hab.flips hP]
    · rw [hbc.flips hQ, hab.keeps fun hP => hdisj col row hP hQ]
  keeps h := by
    obtain ⟨hP, hQ⟩ := not_or.mp h
    rw [hbc.keeps hQ, hab.keeps hP]
  collides := by
    have hseen : ∀ col row, Q col row ∧ b.1.get col row = true ↔ Q col row ∧ a.1.get col row = true :=
      fun col row => and_congr_right fun hQ => by rw [hab.keeps fun hP => hdisj col row hP hQ]
    simp only [hbc.collides, hab.collides, hseen, or_and_right, exists_or, or_assoc]

end

/-- The pixel lies under the bit at offset `b` of the byte whose leftmost bit stands at `(col0, row0)`, and that bit is
set (44_display.md R232). -/
def bitCovers (col0 row0 : Nat) (byte : Byte) (b : Nat) (col : ColIdx) (row : RowIdx) : Prop :=
  row.val = row0 ∧ col.val = col0 + b ∧ byte.getLsbD (7 - b) = true

theorem draws_drawBit (col0 row0 : Nat) (byte : Byte) (acc : Display × Bool) (b : Nat) :
    Draws (bitCovers col0 row0 byte b) acc (drawBit col0 row0 byte acc b) := by
  unfold drawBit
  split
  next hset =>
    have hcov : ∀ col row, bitCovers col0 row0 byte b col row ↔ col0 + b = col.val ∧ row0 = row.val := fun _ _ =>
      ⟨fun ⟨hrow, hcol, _⟩ => ⟨hcol.symm, hrow.symm⟩, fun ⟨hcol, hrow⟩ => ⟨hrow.symm, hcol.symm, hset⟩⟩
    exact {
      flips := fun h => by
        rw [Display.plot_get, ← Bool.decide_and, decide_eq_true ((hcov _ _).mp h), Bool.xor_true]
      keeps := fun h => by
        rw [Display.plot_get, ← Bool.decide_and, decide_eq_false ((hcov _ _).not.mp h), Bool.xor_false]
      collides := by
        rw [Bool.or_eq_true, Display.plot_hit]
        simp only [hcov, and_assoc] }
  next hclear => exact .empty fun _ _ ⟨_, _, hset⟩ => hclear hset

/-- The bits of one byte stand in different columns. -/
theorem draws_foldl_drawBit (col0 row0 : Nat) (byte : Byte) (acc : Display × Bool) (n : Nat) :
    Draws (fun col row => ∃ b < n, bitCovers col0 row0 byte b col row) acc
      ((List.range n).foldl (drawBit col0 row0 byte) acc) := by
  induction n with
  | zero => exact .empty (by simp)
  | succ n ih =>
    rw [List.range_succ, List.foldl_append]
    have hdisj : ∀ col row, (∃ b < n, bitCovers col0 row0 byte b col row) → ¬ bitCovers col0 row0 byte n col row := by
      rintro col row ⟨b, hb, -, hcol, -⟩ ⟨-, hcol', -⟩
      omega
    refine (ih.trans (draws_drawBit col0 row0 byte _ n) hdisj).congr fun col row => ?_
    rw [Nat.exists_lt_succ_right]

/-- A sprite covers what its first byte covers and what the rest covers from the next row on. -/
theorem spriteCovers_cons (col0 row0 : Nat) (byte : Byte) (rest : List Byte) (col : ColIdx) (row : RowIdx) :
    spriteCovers col0 row0 (byte :: rest) col row ↔
      (∃ b < 8, bitCovers col0 row0 byte b col row) ∨ spriteCovers col0 (row0 + 1) rest col row := by
  constructor
  · rintro ⟨_ | i, b, hb, hrow, hcol, hset⟩
    · exact .inl ⟨b, hb, hrow, hcol, hset⟩
    · exact .inr ⟨i, b, hb, by omega, hcol, hset⟩
  · rintro (⟨b, hb, hrow, hcol, hset⟩ | ⟨i, b, hb, hrow, hcol, hset⟩)
    · exact ⟨0, b, hb, hrow, hcol, hset⟩
    · exact ⟨i + 1, b, hb, by omega, hcol, hset⟩

/-- The bytes of a sprite stand in different rows. -/
theorem draws_drawRows (col0 row0 : Nat) (bytes : List Byte) (acc : Display × Bool) :
    Draws (spriteCovers col0 row0 bytes) acc (drawRows col0 row0 bytes acc) := by
  induction bytes generalizing row0 acc with
  | nil => exact .empty (by simp [spriteCovers])
  | cons byte rest ih =>
    have hdisj : ∀ col row, (∃ b < 8, bitCovers col0 row0 byte b col row) →
        ¬ spriteCovers col0 (row0 + 1) rest col row := by
      rintro col row ⟨_, -, hrow, -⟩ ⟨_, _, -, hrow', -⟩
      omega
    exact ((draws_foldl_drawBit col0 row0 byte acc 8).trans (ih (row0 + 1) _) hdisj).congr fun col row =>
      (spriteCovers_cons col0 row0 byte rest col row).symm

theorem draws_drawSprite (d : Display) (col0 row0 : Nat) (bytes : List Byte) :
    Draws (spriteCovers col0 row0 bytes) (d, false) (drawSprite d col0 row0 bytes) :=
  draws_drawRows col0 row0 bytes (d, false)

/-- The collision flag of a sprite (44_display.md R232). -/
theorem drawSprite_collides (d : Display) (col0 row0 : Nat) (bytes : List Byte) :
    (drawSprite d col0 row0 bytes).2 = true ↔
      ∃ col row, spriteCovers col0 row0 bytes col row ∧ d.get col row = true := by
  simpa using (draws_drawSprite d col0 row0 bytes).collides

/-- Settles O45: `draws_drawSprite`, with no collision before it. -/
theorem spriteFlipsThePixelsItCovers : Obligations.SpriteFlipsThePixelsItCovers := fun d col0 row0 bytes =>
  have hdraws := draws_drawSprite d col0 row0 bytes
  ⟨fun _ _ => ⟨hdraws.flips, hdraws.keeps⟩, drawSprite_collides d col0 row0 bytes⟩

/-- Two displays with the same pixels are the same. -/
theorem Display.ext_get {d e : Display} (h : ∀ col row, d.get col row = e.get col row) : d = e :=
  Vector.ext fun row hrow => Vector.ext fun col hcol => h ⟨col, hcol⟩ ⟨row, hrow⟩

/-- Settles O46: a covered pixel is flipped twice, and the second draw finds it on where the first found it off. -/
theorem drawingTwiceRestoresTheDisplay : Obligations.DrawingTwiceRestoresTheDisplay := by
  intro d col0 row0 bytes
  have hfirst := draws_drawSprite d col0 row0 bytes
  have hsecond := draws_drawSprite (drawSprite d col0 row0 bytes).1 col0 row0 bytes
  refine ⟨Display.ext_get fun col row => ?_, ?_⟩
  · by_cases hcov : spriteCovers col0 row0 bytes col row
    · rw [hsecond.flips hcov, hfirst.flips hcov, Bool.not_not]
    · rw [hsecond.keeps hcov, hfirst.keeps hcov]
  · rw [drawSprite_collides]
    refine exists₂_congr fun col row => and_congr_right fun hcov => ?_
    rw [hfirst.flips hcov, Bool.not_eq_true']

/-! ### The instructions -/

/-- Settles O47: the display becomes the blank one, and PC advances. -/
theorem clearScreenTurnsEveryPixelOff : Obligations.ClearScreenTurnsEveryPixelOff :=
  ⟨decode_encode (i := .clearScreen) rfl, fun s => ⟨_, rfl, blankDisplay_get, word_add_two s.pc,
    ((Frame.refl _ _ s).setDisplay (.head _) blankDisplay).advance⟩⟩

/-- The display after a draw of the n bytes at I, and its collision (44_display.md R234). -/
def State.spriteDrawn (s : State) (x y : RegIdx) (n : Nat) : Display × Bool :=
  drawSprite s.display (s.reg x).toNat (s.reg y).toNat (s.spriteBytes n)

/-- A draw whose bytes all exist replaces the display, writes the collision to VF, and advances. -/
theorem exec_draw_ok (s : State) (x y : RegIdx) {n : Nat} (h : n = 0 ∨ s.base + n ≤ memSize) :
    exec (.draw x y n) s =
      .next ((s.setDisplay (s.spriteDrawn x y n).1).setReg VF (flagByte (s.spriteDrawn x y n).2)).advance := by
  have hexec : exec (.draw x y n) s = execDraw x y n s := rfl
  rw [hexec, execDraw, readBytes_ok s.mem s.base n h, State.commit_ok]
  rfl

/-- Settles O48: `exec_draw_ok` where the n bytes exist, its pixels by `draws_drawSprite` and its VF by
`drawSprite_collides`; the error of the read where they do not. -/
theorem drawXorsTheSprite : Obligations.DrawXorsTheSprite := by
  refine fun x y n => ⟨fun hn => decode_encode (i := .draw x y n) (decide_eq_true hn), fun s =>
    ⟨fun hfit => ?_, fun hpos hpast => exec_of_access_past_memory rfl (readBytes_error s.mem s.base n hpos hpast)⟩⟩
  have hdraws := draws_drawSprite s.display (s.reg x).toNat (s.reg y).toNat (s.spriteBytes n)
  have hhit := drawSprite_collides s.display (s.reg x).toNat (s.reg y).toNat (s.spriteBytes n)
  refine ⟨_, exec_draw_ok s x y hfit, fun _ _ => ⟨hdraws.flips, hdraws.keeps⟩, fun hon => ?_, fun hoff => ?_,
    word_add_two s.pc, (((Frame.refl _ _ s).setDisplay (.head _) _).setReg (.head _) _).advance⟩
  · rw [State.advance_reg, State.reg_setReg_same]
    exact congrArg flagByte (hhit.mpr hon)
  · rw [State.advance_reg, State.reg_setReg_same]
    exact congrArg flagByte (Bool.eq_false_of_not_eq_true (hhit.not.mpr hoff))

end Sys2Proof.Machine


/-! PROOFS. The family of 45_input.md: PRESS (R261) and RELEASE (R262), the skips on a key (R264, R265), wait-key
(R266), and the key-wait FSM seen through STATUS (R263). -/

namespace Sys2Proof.Machine

/-! ### PRESS and RELEASE -/

/-- A key's flag set or cleared: that key reads as the flag, every other key as before, and nothing else changes. -/
theorem setKey_effect (s : State) (k : KeyCode) (b : Bool) :
    (s.setKey k b).key k = b ∧ (∀ k', k' ≠ k → (s.setKey k b).key k' = s.key k') ∧
      FrameAndPc [] [.keys] s (s.setKey k b) :=
  ⟨by rw [State.key_setKey, if_pos rfl], fun _ hne => by rw [State.key_setKey, if_neg hne],
    (Frame.refl _ _ s).setKey (.head _) k b, rfl⟩

/-- A PRESS with no wait pending sets the key and does nothing else (45_input.md R261). -/
theorem pressOp_of_no_wait {s : State} (hrun : s.running) (k : KeyCode) : pressOp k s = s.setKey k true := by
  rw [pressOp, State.unlessHalted_of_not_halted hrun.1, hrun.2]

theorem keyByte_toNat (k : KeyCode) : (keyByte k).toNat = k.val := u8_toNat_of_lt (by omega)

theorem resolveWait_reg_same (s : State) (x : RegIdx) (k : KeyCode) : (s.resolveWait x k).reg x = keyByte k :=
  State.reg_setReg_same s x (keyByte k)

/-- Settles O49: with no wait pending PRESS is `State.setKey`; while a key is awaited it is `State.resolveWait` after
that, whatever the key's flag was. -/
theorem pressSetsTheKeyAndEndsTheWait : Obligations.PressSetsTheKeyAndEndsTheWait := by
  intro k s
  obtain ⟨hset, hother, hframe⟩ := setKey_effect s k true
  refine ⟨fun hh => apply_of_halted hh nofun, fun hh hw => ?_, fun x hh hw => ?_⟩
  · exact ⟨_, congrArg Host.Outcome.next (pressOp_of_no_wait ⟨hh, hw⟩ k), hset, hother, hframe⟩
  · refine ⟨_, congrArg Host.Outcome.next (pressOp_of_wait hh hw k), hset, hother, ?_, word_add_two s.pc, rfl, ?_⟩
    · rw [resolveWait_reg_same, keyByte_toNat]
    · exact ((((Frame.refl _ _ s).setKey (.head _) k true).setReg (.head _) (keyByte k)).setPc _).setWait
        (.tail _ (.head _)) none

/-- Settles O50: RELEASE is `State.setKey` unless halted. -/
theorem releaseOnlyClearsTheKey : Obligations.ReleaseOnlyClearsTheKey := fun k s =>
  ⟨fun hh => apply_of_halted hh nofun, fun hh =>
    ⟨_, congrArg Host.Outcome.next (State.unlessHalted_of_not_halted hh _), setKey_effect s k false⟩⟩

/-! ### The skips on a key -/

/-- A word of format XFN in the pattern's order, the low byte `f` added to the opcode, is the encoded one
(30_encoding.md R74). -/
theorem decode_xfnWord {i : Instr} {x : RegIdx} (op f : Nat) (henc : encode i = encXKK op x f) (hwf : i.wf = true) :
    decode (u16 (op * 4096 + f + x.val * 256)) = .ok i := by
  rw [Nat.add_right_comm, ← encXKK, ← henc, decode_encode hwf]

section
variable {i : Instr} {s : State} {x : RegIdx} {c : KeyCode → Bool}

/-- A skip on the key Vx whose number is a key's skips as a skip on the test of that key. -/
theorem exec_of_keyOperand_ok (hexec : exec i s = .next (s.commit (keyOperand (s.reg x)) fun k => s.skipIf (c k)))
    (h : (s.reg x).toNat < 16) : exec i s = .next (s.skipIf (c ⟨(s.reg x).toNat, h⟩)) := by
  rw [hexec, keyOperand_ok h, State.commit_ok]

/-- A skip on the key Vx whose number is no key's halts in its pre-state (92_eei_decisions.md D11). -/
theorem exec_of_keyOperand_error
    (hexec : exec i s = .next (s.commit (keyOperand (s.reg x)) fun k => s.skipIf (c k)))
    (h : 15 < (s.reg x).toNat) : exec i s = .next { s with halt := some (.keyOutOfRange (s.reg x)) } := by
  rw [hexec, keyOperand_error h, State.commit_error]
  rfl

end

/-- Settles O52: up to 15 both are `exec_of_skipIf` of the key's flag or of its negation, above both halt. -/
theorem skipOnKeyReadsTheLatch : Obligations.SkipOnKeyReadsTheLatch := fun x =>
  ⟨decode_xfnWord 0xE 0x9E rfl rfl, decode_xfnWord 0xE 0xA1 rfl rfl, fun s =>
    ⟨fun h =>
      ⟨exec_of_skipIf (exec_of_keyOperand_ok (i := .skipKeyDown x) (c := s.key) rfl h) Iff.rfl,
        exec_of_skipIf (exec_of_keyOperand_ok (i := .skipKeyUp x) (c := fun k => !s.key k) rfl h)
          (Bool.not_eq_true' _).to_iff⟩,
      fun h => ⟨exec_of_keyOperand_error rfl h, exec_of_keyOperand_error rfl h⟩⟩⟩

/-! ### wait-key -/

/-- wait-key records its register and nothing else (45_input.md R266). -/
theorem exec_waitKey (x : RegIdx) (s : State) : exec (.waitKey x) s = .next (s.setWait (some x)) := rfl

/-- Settles O53: the state that wait-key leaves has a wait, so it is not running. -/
theorem waitKeySuspends : Obligations.WaitKeySuspends := fun x =>
  ⟨decode_miscWord 0x0A rfl rfl, fun s =>
    ⟨_, exec_waitKey x s, rfl, ⟨(Frame.refl _ _ s).setWait (.head _) _, rfl⟩,
      step_of_not_running _ fun hrun => Option.some_ne_none x hrun.2⟩⟩

/-! ### The STATUS port (40_engine.md R101) -/

theorem status_eq_halted_iff {s : State} {h : Halt} : s.status = .halted h ↔ s.halt = some h := by
  unfold State.status
  cases s.halt <;> cases s.wait <;> simp

theorem status_eq_awaiting_iff {s : State} {x : RegIdx} : s.status = .awaiting x ↔ s.halt = none ∧ s.wait = some x := by
  unfold State.status
  cases s.halt <;> cases s.wait <;> simp

theorem status_eq_running_iff {s : State} : s.status = .running ↔ s.running := by
  unfold State.status State.running
  cases s.halt <;> cases s.wait <;> simp

/-- STATUS looks at the halt and at the wait alone. -/
theorem status_congr {s t : State} (hh : t.halt = s.halt) (hw : t.wait = s.wait) : t.status = s.status := by
  rw [State.status, State.status, hh, hw]

theorem halt_eq_none_of_status {s : State} (hs : ∀ h, s.status ≠ .halted h) : s.halt = none :=
  Option.eq_none_iff_forall_ne_some.mpr fun h hh => hs h (status_eq_halted_iff.mpr hh)

/-! ### The key-wait FSM (45_input.md R263) -/

/-- A running machine that fetches no wait-key halts or goes on running. -/
theorem status_of_step {s t : State} (hrun : s.running) (hkey : ∀ x, fetchInstr s ≠ .ok (.waitKey x))
    (h : step s = .next t) : t.status = .running ∨ ∃ e, t.status = .halted e := by
  rcases step_cases hrun h with ⟨i, hi, -, hexec⟩ | ⟨e, rfl, -⟩
  · rcases ends_of_exec hexec with ⟨e, -, rfl⟩ | hc
    · exact .inr ⟨e, rfl⟩
    · have hwrites : .wait ∉ i.writes := fun hmem => by
        obtain ⟨x, rfl⟩ := Instr.eq_waitKey_of_writes_wait hmem
        exact hkey x hi
      have hwait : t.wait = s.wait := hc.frame.2 .wait hwrites
      exact .inl (status_eq_running_iff.mpr ⟨hc.halt.trans hrun.1, hwait.trans hrun.2⟩)
  · exact .inr ⟨e, rfl⟩

/-- An operation that keeps the wait and does not halt keeps STATUS, and a halted machine's too. -/
theorem status_unlessHalted {s t : State} (hh : t.halt = s.halt) (hw : t.wait = s.wait) :
    (s.unlessHalted t).status = s.status := by
  unfold State.unlessHalted
  split
  · rfl
  · exact status_congr hh hw

theorem status_loadOp (s : State) {bytes : List Byte} (hlen : bytes.length ≤ maxImage) :
    (loadOp bytes s).status = s.status := by
  obtain ⟨m, hm, -⟩ := loadImage_ok s.mem hlen
  rw [loadOp, hm]
  exact status_unlessHalted rfl rfl

/-- Every PRESS that has an effect leaves no wait. -/
theorem status_pressOp {s : State} (hh : s.halt = none) (k : KeyCode) : (pressOp k s).status = .running := by
  cases hw : s.wait with
  | none =>
    rw [pressOp_of_no_wait ⟨hh, hw⟩]
    exact status_eq_running_iff.mpr ⟨hh, hw⟩
  | some x =>
    rw [pressOp_of_wait hh hw]
    exact status_eq_running_iff.mpr ⟨hh, rfl⟩

/-- Settles O51: the steps by what they fetch, then the operations one by one. -/
theorem keyWaitStatesChangeAsTabled : Obligations.KeyWaitStatesChangeAsTabled := by
  refine ⟨fun s x hs hi => ?_, fun s t hs => status_of_step (status_eq_running_iff.mp hs), fun s x hs => ?_,
    fun s t op hop => ⟨?_, fun k => ?_, fun k => ?_, ?_, fun bytes => ?_, fun h hs hne => ?_⟩⟩
  · have hrun := status_eq_running_iff.mp hs
    exact ⟨_, (step_of_fetchInstr hrun hi).trans (exec_waitKey x s), status_eq_awaiting_iff.mpr ⟨hrun.1, rfl⟩, rfl⟩
  · obtain ⟨-, hw⟩ := status_eq_awaiting_iff.mp hs
    exact step_of_not_running s (by simp [hw])
  · rintro rfl
    cases hop
    rfl
  · rintro rfl hs
    cases hop
    exact status_pressOp (halt_eq_none_of_status hs) k
  · rintro rfl
    cases hop
    exact status_unlessHalted rfl rfl
  · rintro rfl
    cases hop
    exact status_unlessHalted rfl rfl
  · rintro rfl hlen
    cases hop
    exact status_loadOp s hlen
  · have hhalt : s.halt ≠ none := by simp [status_eq_halted_iff.mp hs]
    rw [apply_of_halted hhalt hne] at hop
    cases hop
    exact hs

end Sys2Proof.Machine


/-! PROOFS. The family of 46_timers.md: TICK (R290), the timer instructions (R291 to R293), and the sound timer, which
only set-sound and TICK touch (R295). -/

namespace Sys2Proof.Machine

/-! ### TICK -/

/-- The countdown as R290 says it: by 1 if greater than 0, otherwise 0. -/
theorem countDown_toNat_eq_ite (b : Byte) : (countDown b).toNat = if b.toNat > 0 then b.toNat - 1 else 0 := by
  rw [countDown_toNat]
  split <;> omega

/-- Both timers replaced: nothing else changes, PC included. -/
theorem setDt_setSt_frame (s : State) (dt st : Byte) : FrameAndPc [] [.dt, .st] s ((s.setDt dt).setSt st) :=
  ⟨((Frame.refl _ _ s).setDt (.head _) dt).setSt (.tail _ (.head _)) st, rfl⟩

/-- Settles O54: unless halted, TICK replaces both timers by their countdowns. -/
theorem tickCountsBothTimersDown : Obligations.TickCountsBothTimersDown := fun s =>
  ⟨fun hh => apply_of_halted hh nofun, fun hh =>
    ⟨_, congrArg Host.Outcome.next (State.unlessHalted_of_not_halted hh _), countDown_toNat_eq_ite s.dt,
      countDown_toNat_eq_ite s.st, setDt_setSt_frame s _ _⟩⟩

/-! ### The timer instructions -/

/-- set-delay writes DT and advances; nothing else changes (46_timers.md R292). -/
theorem exec_setDelay (x : RegIdx) (s : State) : ∃ t, exec (.setDelay x) s = .next t ∧ t.dt = s.reg x ∧
    t.pc = u16 (s.pc.toNat + 2) ∧ Frame [] [.dt] s t :=
  ⟨_, rfl, rfl, word_add_two s.pc, ((Frame.refl _ _ s).setDt (.head _) _).advance⟩

/-- set-sound writes ST and advances; nothing else changes (46_timers.md R293). -/
theorem exec_setSound (x : RegIdx) (s : State) : ∃ t, exec (.setSound x) s = .next t ∧ t.st = s.reg x ∧
    t.pc = u16 (s.pc.toNat + 2) ∧ Frame [] [.st] s t :=
  ⟨_, rfl, rfl, word_add_two s.pc, ((Frame.refl _ _ s).setSt (.head _) _).advance⟩

/-- Settles O55: load-delay is `exec_of_setReg` of DT, and the other two write their timer. -/
theorem timerInstructionsMoveTheirByte : Obligations.TimerInstructionsMoveTheirByte := fun x =>
  ⟨decode_miscWord 0x07 rfl rfl, decode_miscWord 0x15 rfl rfl, decode_miscWord 0x18 rfl rfl,
    fun s => ⟨exec_of_setReg rfl, exec_setDelay x s, exec_setSound x s⟩⟩

/-! ### The sound timer is never read (46_timers.md R295) -/

theorem commit_setSt {α : Type} (s : State) (r : Except Halt α) {k k' : α → State} {b : Byte}
    (hk : ∀ a, k' a = (k a).setSt b) : (s.setSt b).commit r k' = (s.commit r k).setSt b := by
  cases r with
  | error e => rfl
  | ok a => exact hk a

theorem drawn_setSt (s : State) (b : Byte) : (s.setSt b).drawn = s.drawn.setSt b := by
  unfold State.drawn
  rw [State.setSt_randIn]
  cases s.randIn <;> rfl

/-- No instruction reads ST: set-sound writes over it, and every other instruction passes it on. -/
theorem exec_setSt {i : Instr} {s t : State} (h : exec i s = .next t) (b : Byte) :
    ∃ b', exec i (s.setSt b) = .next (t.setSt b') := by
  cases i with
  | setSound x =>
    cases h
    exact ⟨s.reg x, rfl⟩
  | ret | call _ | draw _ _ _ | skipKeyDown _ | skipKeyUp _ | bcd _ | dumpRegs _ | loadRegs _ =>
    cases h
    exact ⟨b, congrArg Host.Outcome.next (commit_setSt s _ fun _ => rfl)⟩
  | rand x kk =>
    cases h
    have hexec : exec (.rand x kk) (s.setSt b) =
        .next ((s.setSt b).drawn.setReg x (s.randomByte &&& kk)).advance := rfl
    rw [hexec, drawn_setSt]
    exact ⟨b, rfl⟩
  | _ =>
    cases h
    exact ⟨b, rfl⟩

/-- Neither the checks of STEP, the fetch, nor the instruction reads ST. -/
theorem step_setSt {s t : State} (h : step s = .next t) (b : Byte) :
    ∃ b', step (s.setSt b) = .next (t.setSt b') := by
  by_cases hrun : s.running
  · have hrun' : (s.setSt b).running := hrun
    have hfetch : fetchInstr (s.setSt b) = fetchInstr s := rfl
    rw [step_of_running s hrun] at h
    rw [step_of_running _ hrun', hfetch]
    revert h
    cases fetchInstr s with
    | error e =>
      rintro ⟨⟩
      exact ⟨b, rfl⟩
    | ok i => exact fun h => exec_setSt h b
  · rw [step_of_not_running s hrun] at h
    cases h
    exact ⟨b, step_of_not_running (s.setSt b) hrun⟩

/-- Settles O39: giving ST another value is `State.setSt`. -/
theorem soundTimerIsNeverRead : Obligations.SoundTimerIsNeverRead := fun _ _ b h => step_setSt h b

end Sys2Proof.Machine

/-! PROOFS. The family of 60_exceptions.md: the closed list of the halts that an instruction can raise (R310, R312). -/

namespace Sys2Proof.Machine

theorem Instr.readsKey_of_skipKey {i : Instr} {x : RegIdx} (hi : i = .skipKeyDown x ∨ i = .skipKeyUp x) :
    i.readsKey = true := by
  rcases hi with rfl | rfl <;> rfl

/-- An instruction that changes the halt latch has raised a halt of the list, and the latch records it. -/
theorem raises_of_halt_ne {i : Instr} {s t : State} (h : exec i s = .next t) (hne : t.halt ≠ s.halt) :
    ∃ e, Raises i s e ∧ t.halt = some e := by
  rcases ends_of_exec h with ⟨e, he, rfl⟩ | hc
  · exact ⟨e, he, rfl⟩
  · exact absurd hc.halt hne

/-- Settles O18: a completed instruction keeps `H`, and `Raises` has a case for each of the two reasons. -/
theorem instructionsHaltOnlyAsListed : Obligations.InstructionsHaltOnlyAsListed := by
  intro i s t h hne
  obtain ⟨e, he, ht⟩ := raises_of_halt_ne h hne
  cases he with
  | memory hi ha => exact .inl ⟨hi, _, ht, ha⟩
  | key hi hv => exact .inr ⟨Instr.readsKey_of_skipKey hi, _, hi, hv, ht⟩

end Sys2Proof.Machine

/-! PROOFS. The family of 70_reset_and_hazards.md: RESET (R340) and LOAD (R341); and the statements about the form of
the model itself: the canonical memory, the placed word, the next state of every operation, and the random byte. -/

namespace Sys2Proof.Machine

/-! ### RESET (70_reset_and_hazards.md R340) -/

theorem font_length : font.length = 80 := rfl

/-- Past the font, memory is zero after RESET (10_state.md R33). -/
theorem resetByte_of_font_length_le {a : Nat} (h : font.length ≤ a) : resetByte a = 0 := List.getD_eq_default _ _ h

/-- RESET keeps nothing of the state but the model's own random fields. -/
theorem apply_reset (s : State) : HostOp.reset.apply s = .next (State.reset.setRandom s.randIn s.draws) := rfl

theorem reset_reg (j : RegIdx) : State.reset.reg j = 0 := Vector.getElem_replicate j.isLt

theorem reset_key (k : KeyCode) : State.reset.key k = false := Vector.getElem_replicate k.isLt

/-- Settles O56: every field is that of `State.reset`, whose memory lists no cell and so reads `resetByte`
everywhere. -/
theorem resetGivesTheInitialState : Obligations.ResetGivesTheInitialState :=
  ⟨font_length, fun s => ⟨_, apply_reset s, fun _ _ => rfl, fun _ hge _ => resetByte_of_font_length_le hge,
    reset_reg, rfl, rfl, rfl, rfl, rfl, blankDisplay_get, reset_key, rfl, rfl, rfl⟩⟩

/-! ### LOAD (70_reset_and_hazards.md R341) -/

theorem loadImage_tooLong (m : Memory) {bytes : List Byte} (h : maxImage < bytes.length) :
    loadImage m bytes = .error (.imageTooLong bytes.length) := if_pos h

/-- LOAD changes no byte outside its image. -/
theorem read_of_loadImage {m m' : Memory} {bytes : List Byte} (h : loadImage m bytes = .ok m') {a : Nat}
    (ha : a < progBase ∨ progBase + bytes.length ≤ a) : m'.read a = m.read a := by
  unfold loadImage at h
  split at h
  · cases h
  · next hlen =>
    have hfit : progBase + bytes.length ≤ memSize := by simp only [progBase, maxImage, memSize] at *; omega
    obtain ⟨m₁, hw, -, hread⟩ := writeBytes_ok m progBase bytes (.inr hfit)
    obtain rfl : m₁ = m' := by simpa [hw] using h
    rw [hread, dif_neg (by omega)]

/-- LOAD in a state that is not halted replaces the memory by what `loadImage` gives, or halts. -/
theorem apply_load {s : State} (hh : s.halt = none) (bytes : List Byte) :
    (HostOp.load bytes).apply s = .next (s.commit (loadImage s.mem bytes) s.setMem) :=
  congrArg Host.Outcome.next (State.unlessHalted_of_not_halted hh _)

/-- Settles O57: by the cases of `loadImage`, too long and fitting; the image by `loadImage_ok`, the other bytes by
`read_of_loadImage`. -/
theorem loadCopiesTheImage : Obligations.LoadCopiesTheImage := by
  refine fun bytes s => ⟨fun hh => apply_of_halted hh nofun, fun hh hlong => ?_, fun hh hlen => ?_⟩
  · rw [apply_load hh, loadImage_tooLong s.mem hlong, State.commit_error]
    rfl
  · obtain ⟨m, hm, himage⟩ := loadImage_ok s.mem hlen
    refine ⟨s.setMem m, ?_, himage, fun a ha => read_of_loadImage hm ha, (Frame.refl _ _ s).setMem (.head _) m, rfl⟩
    rw [apply_load hh, hm, State.commit_ok]

/-! ### The canonical form of memory (log 12) -/

/-- The first cell of its address is the one read; in rising order it is the only one. -/
theorem Memory.read_of_mem {m : Memory} (hm : m.Pairwise fun c d => c.1 < d.1) {c : Host.Cell} (hc : c ∈ m) :
    m.read c.1 = c.2 := by
  induction hm with
  | nil => cases hc
  | cons hlt _ ih =>
    rw [Memory.read_cons]
    rcases List.mem_cons.mp hc with rfl | hc
    · exact if_pos rfl
    · rw [if_neg (hlt c hc).ne, ih hc]

/-- What does not read as after RESET is listed. -/
theorem Memory.mem_of_read_ne {m : Memory} {a : Nat} (h : m.read a ≠ resetByte a) : (a, m.read a) ∈ m := by
  induction m with
  | nil => exact absurd rfl h
  | cons c m ih =>
    rw [Memory.read_cons] at h ⊢
    by_cases hc : c.1 = a
    · subst hc
      simp
    · rw [if_neg hc] at h ⊢
      exact List.mem_cons_of_mem c (ih h)

/-- A canonical memory lists the cells that its reads tell from those after RESET. -/
theorem Memory.mem_iff {m : Memory} (hm : m.wf) {c : Host.Cell} :
    c ∈ m ↔ c.1 < memSize ∧ m.read c.1 = c.2 ∧ c.2 ≠ resetByte c.1 := by
  obtain ⟨hsorted, hcells⟩ := hm
  constructor
  · intro hc
    obtain ⟨hlt, hne⟩ := hcells c hc
    exact ⟨hlt, Memory.read_of_mem hsorted hc, hne⟩
  · rintro ⟨-, hread, hne⟩
    have hmem := Memory.mem_of_read_ne (m := m) (a := c.1) (hread ▸ hne)
    rwa [hread] at hmem

/-- Settles O9: by `Memory.mem_iff` the two lists have the same cells, and both are in the one rising order. -/
theorem equalReadsMeanEqualMemory : Obligations.EqualReadsMeanEqualMemory := by
  intro m m' hm hm' hread
  have hmem : ∀ c, c ∈ m ↔ c ∈ m' := fun c => by
    rw [Memory.mem_iff hm, Memory.mem_iff hm']
    exact and_congr_right fun hlt => by rw [hread c.1 hlt]
  have hirrefl : Std.Irrefl fun c d : Host.Cell => c.1 < d.1 := ⟨fun c => lt_irrefl c.1⟩
  have hantisymm : Std.Antisymm fun c d : Host.Cell => c.1 < d.1 := ⟨fun _ _ hcd hdc => absurd hdc hcd.asymm⟩
  exact hm.1.eq_of_mem_iff hm'.1 hmem

/-! ### The placed word (logs 9 and 11) -/

theorem u16_mod_of_toNat (w : Word) : u16 (w.toNat % 2 ^ 16) = w := by
  apply BitVec.eq_of_toNat_eq
  rw [u16_toNat]
  omega

theorem readyToFetch_running (s : State) : s.readyToFetch.running := ⟨rfl, rfl⟩

theorem readyToFetch_fetchable (s : State) : s.readyToFetch.fetchable := by
  have hpc : s.readyToFetch.pc = if s.pc.toNat + 1 > 0xFFF then 0x0200 else s.pc := rfl
  rw [State.fetchable, hpc]
  split
  · decide
  · omega

/-- The word placed is the number at PC of the state it is placed in. -/
theorem withWord_numberAtPc (s : State) (w : Word) : (s.withWord w).numberAtPc = w.toNat := by
  have hmem : (s.withWord w).mem = storeWord s.readyToFetch.mem (s.withWord w).pc.toNat w := rfl
  rw [State.numberAtPc, hmem, storeWord_read, storeWord_read, if_neg (by omega), if_pos rfl, if_pos rfl,
    highByte_toNat, lowByte_toNat]
  omega

theorem step_withWord (s : State) {w : Word} {i : Instr} (hd : decode w = .ok i) :
    step (s.withWord w) = exec i (s.withWord w) :=
  step_of_fetchInstr (readyToFetch_running s)
    (fetchInstr_of_numberAtPc (readyToFetch_fetchable s) (withWord_numberAtPc s w).symm hd)

theorem decodeTableWord_of_decode {w : Word} {i : Instr} (hd : decode w = .ok i) :
    decodeTableWord 16 w.toNat = some i := by
  simp only [decodeTableWord, u16_mod_of_toNat, decodeBytes, concatBytes_high_low, hd]

/-- Settles O13: a 16-bit word loses no bit, so what is placed is `State.withWord` of it. -/
theorem placedWordRunsNext : Obligations.PlacedWordRunsNext := by
  intro s w i hd
  rw [State.withFetchWord, u16_mod_of_toNat]
  exact ⟨step_withWord s hd, decodeTableWord_of_decode hd⟩

/-! ### The next state of every operation (logs 6 and 15) -/

theorem exists_next_of_exec (i : Instr) (s : State) : ∃ t, exec i s = .next t :=
  (exec_ends i s).imp fun _ => And.left

theorem exists_next_of_apply (op : HostOp) (s : State) : ∃ t, op.apply s = .next t := by
  cases op with
  | step r =>
    obtain ⟨t, ht⟩ := exists_next_of_step (s.setRandom [r] s.draws)
    exact ⟨_, stepWith_of_step ht⟩
  | reset | load _ | tick | press _ | release _ => exact ⟨_, rfl⟩

theorem exists_next_of_runOps (ops : List HostOp) (s : State) : ∃ t, runOps ops s = .next t := by
  induction ops generalizing s with
  | nil => exact ⟨s, rfl⟩
  | cons op ops ih =>
    obtain ⟨t, ht⟩ := exists_next_of_apply op s
    rw [runOps, ht]
    exact ih t

/-- Settles O17: STEP is a fetch and an instruction, and a schedule is one operation after another. -/
theorem everyOperationAnswersANextState : Obligations.EveryOperationAnswersANextState :=
  ⟨exists_next_of_step, exists_next_of_exec, exists_next_of_runOps⟩

/-! ### The random byte (log 1) -/

section
variable {s : State}

theorem randomByte_of_randIn_cons {r : Byte} {later : List Byte} (h : s.randIn = r :: later) : s.randomByte = r := by
  rw [State.randomByte, h]

theorem drawn_of_randIn_cons {r : Byte} {later : List Byte} (h : s.randIn = r :: later) :
    s.drawn = s.setRandom later s.draws := by
  rw [State.drawn, h]

theorem randomByte_of_randIn_nil (h : s.randIn = []) : s.randomByte = Config.freeRandom s.draws := by
  rw [State.randomByte, h]

theorem drawn_of_randIn_nil (h : s.randIn = []) : s.drawn = s.setRandom [] (s.draws + 1) := by
  rw [State.drawn, h]

end

/-- rand writes the masked byte of the draw and leaves the random fields as the draw leaves them. -/
theorem exec_rand_draws (x : RegIdx) (kk : Byte) (s : State) : ∃ t, exec (.rand x kk) s = .next t ∧
    t.reg x = s.randomByte &&& kk ∧ t.randIn = s.drawn.randIn ∧ t.draws = s.drawn.draws :=
  ⟨_, rfl, State.reg_setReg_same _ x _, rfl, rfl⟩

/-- Settles O36: `exec_rand_draws`, and the draw by what the host has handed over. -/
theorem randomBytesAreTakenOnce : Obligations.RandomBytesAreTakenOnce := by
  refine fun x kk => ⟨fun s r later hs => ?_, fun s hs => ?_⟩
  · have hexec := exec_rand_draws x kk s
    rwa [randomByte_of_randIn_cons hs, drawn_of_randIn_cons hs] at hexec
  · have hexec := exec_rand_draws x kk s
    rwa [randomByte_of_randIn_nil hs, drawn_of_randIn_nil hs] at hexec

end Sys2Proof.Machine
